-- ==== Sys2Proof/Word.lean ====
section
/-! DEFINITION. The two word types of MWAU-d128: the 64-bit data word and the 32-bit command word. -/

namespace Sys2Proof

/-- A data word: 64 bits (00_scope.md R4, parameter `WORD`). It is the unit in which data crosses the
command port (20_memory.md R35). -/
abbrev Word := BitVec 64

/-- A command word `insn`: 32 bits, one length and one format (30_encoding.md R45). -/
abbrev CmdWord := BitVec 32

end Sys2Proof
end

