-- ==== Sys2Proof/Syntax.lean ====
section
/-! DEFINITION. The instructions of MWAU-d128: one constructor per row of spec/opcode_table.json, with the
operands the row's fields carry (30_encoding.md R46 to R50). The 64-bit operand `opa` travels with the command
and is no part of the instruction (30_encoding.md R51: "Decoding depends on `insn` alone"). -/

namespace Sys2Proof

/-- The number of a wide register, W0 to W7 (10_state.md R10). -/
abbrev WReg := Fin 8

/-- The three widths of a multi-word value (00_scope.md R4, `WIDTHS`). -/
inductive Width where
  /-- 128 bits, 2 words. -/
  | w128
  /-- 192 bits, 3 words. -/
  | w192
  /-- 256 bits, 4 words. -/
  | w256
deriving DecidableEq, Repr

/-- The divisor select `c` of DIVC, under its assembler names (42_divide.md R75, 30_encoding.md R53). -/
inductive Divisor where
  /-- c = 0: 10. -/
  | d10
  /-- c = 1: 10^4. -/
  | d1e4
  /-- c = 2: 10^19 − 1. -/
  | d19n
  /-- c = 3: 10^19. -/
  | d1e19
deriving DecidableEq, Repr

/-- The 2-bit field `tf` of RND as it decodes (30_encoding.md R48): the reserved code decodes too and
faults with BADVAL when the command executes (44_round.md R93). -/
inductive TruncField where
  /-- 00: value 0. -/
  | exact
  /-- 01: value +1. -/
  | above
  /-- 10: reserved. -/
  | reserved
  /-- 11: value −1. -/
  | below
deriving DecidableEq, Repr

/-- The commands of MWAU-d128. Word indices `i`, shift amounts `n` and special-register numbers `sr` are
plain numbers; `Instr.wellFormed` says which of them an encoding can hold. -/
inductive Instr where
  /-- `SETW.128`, rule R60: set a wide register from `opa`, zero-extended to 128 bits (40_move.md). -/
  | setw128 (rd : WReg)
  /-- `SETW.192`, rule R60: set a wide register from `opa`, zero-extended to 192 bits (40_move.md). -/
  | setw192 (rd : WReg)
  /-- `SETW.256`, rule R60: set a wide register from `opa`, zero-extended to 256 bits (40_move.md). -/
  | setw256 (rd : WReg)
  /-- `INSW`, rule R61: replace word `i` of a wide register by `opa` (40_move.md). -/
  | insw (rd : WReg) (i : Nat)
  /-- `RDW`, rule R62: read word `i` of a wide register (40_move.md). -/
  | rdw (rs1 : WReg) (i : Nat)
  /-- `WIDEN.128`, rule R63: convert to width 128, an equal or greater width (40_move.md). -/
  | widen128 (rd rs1 : WReg)
  /-- `WIDEN.192`, rule R63: convert to width 192, an equal or greater width (40_move.md). -/
  | widen192 (rd rs1 : WReg)
  /-- `WIDEN.256`, rule R63: convert to width 256, an equal or greater width (40_move.md). -/
  | widen256 (rd rs1 : WReg)
  /-- `NARROW.128`, rule R64: convert to width 128, an equal or smaller width (40_move.md). -/
  | narrow128 (rd rs1 : WReg)
  /-- `NARROW.192`, rule R64: convert to width 192, an equal or smaller width (40_move.md). -/
  | narrow192 (rd rs1 : WReg)
  /-- `NARROW.256`, rule R64: convert to width 256, an equal or smaller width (40_move.md). -/
  | narrow256 (rd rs1 : WReg)
  /-- `ADD.128`, rule R70: add two 128-bit values (41_addmul.md). -/
  | add128 (rd rs1 rs2 : WReg)
  /-- `ADD.192`, rule R70: add two 192-bit values (41_addmul.md). -/
  | add192 (rd rs1 rs2 : WReg)
  /-- `ADD.256`, rule R70: add two 256-bit values (41_addmul.md). -/
  | add256 (rd rs1 rs2 : WReg)
  /-- `MUL.128`, rule R71: multiply a 128-bit value by the 64-bit multiplier `opa` (41_addmul.md). -/
  | mul128 (rd rs1 : WReg)
  /-- `MUL.192`, rule R71: multiply a 192-bit value by the 64-bit multiplier `opa` (41_addmul.md). -/
  | mul192 (rd rs1 : WReg)
  /-- `MUL.256`, rule R71: multiply a 256-bit value by the 64-bit multiplier `opa` (41_addmul.md). -/
  | mul256 (rd rs1 : WReg)
  /-- `DIVC.128`, rule R76: divide a 128-bit value by a constant divisor (42_divide.md). -/
  | divc128 (rd rs1 : WReg) (c : Divisor)
  /-- `DIVC.192`, rule R76: divide a 192-bit value by a constant divisor (42_divide.md). -/
  | divc192 (rd rs1 : WReg) (c : Divisor)
  /-- `DIVC.256`, rule R76: divide a 256-bit value by a constant divisor (42_divide.md). -/
  | divc256 (rd rs1 : WReg) (c : Divisor)
  /-- `SHL.128`, rule R80: shift a 128-bit value left by `opa` (43_shift_clz.md). -/
  | shl128 (rd rs1 : WReg)
  /-- `SHL.192`, rule R80: shift a 192-bit value left by `opa` (43_shift_clz.md). -/
  | shl192 (rd rs1 : WReg)
  /-- `SHL.256`, rule R80: shift a 256-bit value left by `opa` (43_shift_clz.md). -/
  | shl256 (rd rs1 : WReg)
  /-- `SHLI.128`, rule R81: shift a 128-bit value left by the immediate `n` (43_shift_clz.md). -/
  | shli128 (rd rs1 : WReg) (n : Nat)
  /-- `SHLI.192`, rule R81: shift a 192-bit value left by the immediate `n` (43_shift_clz.md). -/
  | shli192 (rd rs1 : WReg) (n : Nat)
  /-- `SHLI.256`, rule R81: shift a 256-bit value left by the immediate `n` (43_shift_clz.md). -/
  | shli256 (rd rs1 : WReg) (n : Nat)
  /-- `CLZ.128`, rule R82: count the leading zeros of a 128-bit value (43_shift_clz.md). -/
  | clz128 (rs1 : WReg)
  /-- `CLZ.192`, rule R82: count the leading zeros of a 192-bit value (43_shift_clz.md). -/
  | clz192 (rs1 : WReg)
  /-- `CLZ.256`, rule R82: count the leading zeros of a 256-bit value (43_shift_clz.md). -/
  | clz256 (rs1 : WReg)
  /-- `CLZT.128`, rule R83: count the leading zeros of the top word of a 128-bit value (43_shift_clz.md). -/
  | clzt128 (rs1 : WReg)
  /-- `CLZT.192`, rule R83: count the leading zeros of the top word of a 192-bit value (43_shift_clz.md). -/
  | clzt192 (rs1 : WReg)
  /-- `CLZT.256`, rule R83: count the leading zeros of the top word of a 256-bit value (43_shift_clz.md). -/
  | clzt256 (rs1 : WReg)
  /-- `RND`, rule R90: normalize to 34 digits, round and classify (44_round.md). -/
  | rnd (rd rs1 : WReg) (tf : TruncField) (neg : Bool)
  /-- `NOP`, rule R110: do nothing (45_system.md). -/
  | nop
  /-- `RDSR`, rule R111: read special register `sr` (45_system.md). -/
  | rdsr (sr : Nat)
  /-- `WRSR`, rule R112: write special register `sr` (45_system.md). -/
  | wrsr (sr : Nat)
  /-- `CLRST`, rule R113: clear sticky status bits, mask `m` (45_system.md). -/
  | clrst (m : BitVec 2)
deriving DecidableEq, Repr

end Sys2Proof
end

