-- ==== Sys2Proof/WellFormed.lean ====
section
/-! DEFINITION. Which instruction terms an encoding can hold: every operand within its field
(30_encoding.md R46, R48). Register numbers, divisor selects, `tf`, `neg` and the mask `m` fit by their types. -/

namespace Sys2Proof

/-- The check on an instruction's operands: a word index `i` has 2 bits, a shift amount `n` has 10 bits,
a special-register number `sr` has 4 bits (30_encoding.md R48). -/
def Instr.wellFormed : Instr → Bool
  | .setw128 _ => true
  | .setw192 _ => true
  | .setw256 _ => true
  | .insw _ i => decide (i < 4)
  | .rdw _ i => decide (i < 4)
  | .widen128 _ _ => true
  | .widen192 _ _ => true
  | .widen256 _ _ => true
  | .narrow128 _ _ => true
  | .narrow192 _ _ => true
  | .narrow256 _ _ => true
  | .add128 _ _ _ => true
  | .add192 _ _ _ => true
  | .add256 _ _ _ => true
  | .mul128 _ _ => true
  | .mul192 _ _ => true
  | .mul256 _ _ => true
  | .divc128 _ _ _ => true
  | .divc192 _ _ _ => true
  | .divc256 _ _ _ => true
  | .shl128 _ _ => true
  | .shl192 _ _ => true
  | .shl256 _ _ => true
  | .shli128 _ _ n => decide (n < 1024)
  | .shli192 _ _ n => decide (n < 1024)
  | .shli256 _ _ n => decide (n < 1024)
  | .clz128 _ => true
  | .clz192 _ => true
  | .clz256 _ => true
  | .clzt128 _ => true
  | .clzt192 _ => true
  | .clzt256 _ => true
  | .rnd _ _ _ _ => true
  | .nop => true
  | .rdsr sr => decide (sr < 16)
  | .wrsr sr => decide (sr < 16)
  | .clrst _ => true

/-- An instruction that some command word encodes. -/
abbrev Instr.WellFormed (i : Instr) : Prop := i.wellFormed = true

end Sys2Proof
end

