-- ==== Sys2Proof/Decode.lean ====
section
/-! DEFINITION. The decoder of command words, the encoder, and the opcode table of MWAU-d128
(30_encoding.md R45 to R52). Decoding is total and depends on the command word alone (R51). -/

namespace Sys2Proof

/-- The seven fields of a command word, most significant first (30_encoding.md R46). -/
structure Fields where
  /-- Bits 31:24, the operation code. -/
  op : BitVec 8
  /-- Bits 23:22, the width select. -/
  ws : BitVec 2
  /-- Bits 21:19, the destination wide register. -/
  rd : BitVec 3
  /-- Bits 18:16, the first source wide register. -/
  rs1 : BitVec 3
  /-- Bits 15:13, the second source wide register. -/
  rs2 : BitVec 3
  /-- Bits 12:10, zero in every command. -/
  z : BitVec 3
  /-- Bits 9:0, the immediate. -/
  imm : BitVec 10
deriving DecidableEq, Repr

/-- The fields of a command word (30_encoding.md R46). -/
def Fields.ofWord (w : CmdWord) : Fields :=
  ⟨w.extractLsb' 24 8, w.extractLsb' 22 2, w.extractLsb' 19 3, w.extractLsb' 16 3, w.extractLsb' 13 3,
    w.extractLsb' 10 3, w.extractLsb' 0 10⟩

/-- The command word with these fields (30_encoding.md R46). -/
def Fields.toWord (f : Fields) : CmdWord :=
  f.op ++ f.ws ++ f.rd ++ f.rs1 ++ f.rs2 ++ f.z ++ f.imm

/-- The code of a divisor select (42_divide.md R75). -/
def Divisor.code : Divisor → BitVec 2
  | .d10 => 0
  | .d1e4 => 1
  | .d19n => 2
  | .d1e19 => 3

/-- The divisor select of a code; all four codes are legal (42_divide.md R76). -/
def Divisor.ofCode (c : BitVec 2) : Divisor :=
  match c with
  | 0#2 => .d10
  | 1#2 => .d1e4
  | 2#2 => .d19n
  | _ => .d1e19

/-- The code of the truncation flag field (30_encoding.md R48: 2-bit two's complement, 10 reserved). -/
def TruncField.code : TruncField → BitVec 2
  | .exact => 0
  | .above => 1
  | .reserved => 2
  | .below => 3

/-- The truncation flag field of a code (30_encoding.md R48). -/
def TruncField.ofCode (c : BitVec 2) : TruncField :=
  match c with
  | 0#2 => .exact
  | 1#2 => .above
  | 2#2 => .reserved
  | _ => .below

/-- Why a command word matches no row of the opcode table. The spec has the one verdict *illegal*
(30_encoding.md R51, R52); the three names are the model's (notes/assumptions/12.md) and all lead to the same
fault ILLEGAL. -/
inductive Illegal where
  /-- R52 (a): no command has this operation code. -/
  | unknownOp
  /-- R52 (b), (c), (d): a width select this operation code does not take. -/
  | badWidthSelect
  /-- R52 (e), R49: a bit that must be zero is set. -/
  | mustBeZero
deriving DecidableEq, Repr

/-- R49: every field the row does not use is zero, `Z` is zero, and the immediate has no bit set at or above
`immBits`. -/
def Fields.clean (f : Fields) (useRd useRs1 useRs2 : Bool) (immBits : Nat) : Bool :=
  (useRd || f.rd == 0) && (useRs1 || f.rs1 == 0) && (useRs2 || f.rs2 == 0) && f.z == 0 &&
    decide (f.imm.toNat < 2 ^ immBits)

/-- One row of the decoder: the instruction if the must-be-zero bits are zero (30_encoding.md R49). -/
def Fields.row (f : Fields) (useRd useRs1 useRs2 : Bool) (immBits : Nat) (i : Instr) : Except Illegal Instr :=
  if f.clean useRd useRs1 useRs2 immBits then .ok i else .error .mustBeZero

/-- The operation codes of the 17 mnemonics (30_encoding.md R50). -/
def knownOps : List (BitVec 8) :=
  [0x01, 0x02, 0x03, 0x04, 0x05, 0x10, 0x11, 0x12, 0x18, 0x19, 0x1A, 0x1B, 0x20, 0x30, 0x31, 0x32, 0x33]

/-- The decoder over the fields of a command word: one arm per row of R50 (30_encoding.md). -/
def Fields.decode (f : Fields) : Except Illegal Instr :=
  match f.op, f.ws with
  | 0x01#8, 1#2 => f.row true false false 0 (.setw128 f.rd.toFin)
  | 0x01#8, 2#2 => f.row true false false 0 (.setw192 f.rd.toFin)
  | 0x01#8, 3#2 => f.row true false false 0 (.setw256 f.rd.toFin)
  | 0x02#8, 0#2 => f.row true false false 2 (.insw f.rd.toFin f.imm.toNat)
  | 0x03#8, 0#2 => f.row false true false 2 (.rdw f.rs1.toFin f.imm.toNat)
  | 0x04#8, 1#2 => f.row true true false 0 (.widen128 f.rd.toFin f.rs1.toFin)
  | 0x04#8, 2#2 => f.row true true false 0 (.widen192 f.rd.toFin f.rs1.toFin)
  | 0x04#8, 3#2 => f.row true true false 0 (.widen256 f.rd.toFin f.rs1.toFin)
  | 0x05#8, 1#2 => f.row true true false 0 (.narrow128 f.rd.toFin f.rs1.toFin)
  | 0x05#8, 2#2 => f.row true true false 0 (.narrow192 f.rd.toFin f.rs1.toFin)
  | 0x05#8, 3#2 => f.row true true false 0 (.narrow256 f.rd.toFin f.rs1.toFin)
  | 0x10#8, 1#2 => f.row true true true 0 (.add128 f.rd.toFin f.rs1.toFin f.rs2.toFin)
  | 0x10#8, 2#2 => f.row true true true 0 (.add192 f.rd.toFin f.rs1.toFin f.rs2.toFin)
  | 0x10#8, 3#2 => f.row true true true 0 (.add256 f.rd.toFin f.rs1.toFin f.rs2.toFin)
  | 0x11#8, 1#2 => f.row true true false 0 (.mul128 f.rd.toFin f.rs1.toFin)
  | 0x11#8, 2#2 => f.row true true false 0 (.mul192 f.rd.toFin f.rs1.toFin)
  | 0x11#8, 3#2 => f.row true true false 0 (.mul256 f.rd.toFin f.rs1.toFin)
  | 0x12#8, 1#2 => f.row true true false 2 (.divc128 f.rd.toFin f.rs1.toFin (Divisor.ofCode (f.imm.extractLsb' 0 2)))
  | 0x12#8, 2#2 => f.row true true false 2 (.divc192 f.rd.toFin f.rs1.toFin (Divisor.ofCode (f.imm.extractLsb' 0 2)))
  | 0x12#8, 3#2 => f.row true true false 2 (.divc256 f.rd.toFin f.rs1.toFin (Divisor.ofCode (f.imm.extractLsb' 0 2)))
  | 0x18#8, 1#2 => f.row true true false 0 (.shl128 f.rd.toFin f.rs1.toFin)
  | 0x18#8, 2#2 => f.row true true false 0 (.shl192 f.rd.toFin f.rs1.toFin)
  | 0x18#8, 3#2 => f.row true true false 0 (.shl256 f.rd.toFin f.rs1.toFin)
  | 0x19#8, 1#2 => f.row true true false 10 (.shli128 f.rd.toFin f.rs1.toFin f.imm.toNat)
  | 0x19#8, 2#2 => f.row true true false 10 (.shli192 f.rd.toFin f.rs1.toFin f.imm.toNat)
  | 0x19#8, 3#2 => f.row true true false 10 (.shli256 f.rd.toFin f.rs1.toFin f.imm.toNat)
  | 0x1A#8, 1#2 => f.row false true false 0 (.clz128 f.rs1.toFin)
  | 0x1A#8, 2#2 => f.row false true false 0 (.clz192 f.rs1.toFin)
  | 0x1A#8, 3#2 => f.row false true false 0 (.clz256 f.rs1.toFin)
  | 0x1B#8, 1#2 => f.row false true false 0 (.clzt128 f.rs1.toFin)
  | 0x1B#8, 2#2 => f.row false true false 0 (.clzt192 f.rs1.toFin)
  | 0x1B#8, 3#2 => f.row false true false 0 (.clzt256 f.rs1.toFin)
  | 0x20#8, 1#2 => f.row true true false 3 (.rnd f.rd.toFin f.rs1.toFin (TruncField.ofCode (f.imm.extractLsb' 0 2)) (f.imm.getLsbD 2))
  | 0x30#8, 0#2 => f.row false false false 0 .nop
  | 0x31#8, 0#2 => f.row false false false 4 (.rdsr f.imm.toNat)
  | 0x32#8, 0#2 => f.row false false false 4 (.wrsr f.imm.toNat)
  | 0x33#8, 0#2 => f.row false false false 2 (.clrst (f.imm.extractLsb' 0 2))
  | op, _ => if op ∈ knownOps then .error .badWidthSelect else .error .unknownOp

/-- `decode(insn)` of 30_encoding.md R51: the instruction of the row that matches, or why none does. -/
def decode (w : CmdWord) : Except Illegal Instr := (Fields.ofWord w).decode

/-- The fields of an instruction's command word, from the encoding table of R50 and the sub-fields of R48
(30_encoding.md). -/
def Instr.fields : Instr → Fields
  | .setw128 rd => ⟨0x01, 1, .ofFin rd, 0, 0, 0, 0⟩
  | .setw192 rd => ⟨0x01, 2, .ofFin rd, 0, 0, 0, 0⟩
  | .setw256 rd => ⟨0x01, 3, .ofFin rd, 0, 0, 0, 0⟩
  | .insw rd i => ⟨0x02, 0, .ofFin rd, 0, 0, 0, .ofNat 10 i⟩
  | .rdw rs1 i => ⟨0x03, 0, 0, .ofFin rs1, 0, 0, .ofNat 10 i⟩
  | .widen128 rd rs1 => ⟨0x04, 1, .ofFin rd, .ofFin rs1, 0, 0, 0⟩
  | .widen192 rd rs1 => ⟨0x04, 2, .ofFin rd, .ofFin rs1, 0, 0, 0⟩
  | .widen256 rd rs1 => ⟨0x04, 3, .ofFin rd, .ofFin rs1, 0, 0, 0⟩
  | .narrow128 rd rs1 => ⟨0x05, 1, .ofFin rd, .ofFin rs1, 0, 0, 0⟩
  | .narrow192 rd rs1 => ⟨0x05, 2, .ofFin rd, .ofFin rs1, 0, 0, 0⟩
  | .narrow256 rd rs1 => ⟨0x05, 3, .ofFin rd, .ofFin rs1, 0, 0, 0⟩
  | .add128 rd rs1 rs2 => ⟨0x10, 1, .ofFin rd, .ofFin rs1, .ofFin rs2, 0, 0⟩
  | .add192 rd rs1 rs2 => ⟨0x10, 2, .ofFin rd, .ofFin rs1, .ofFin rs2, 0, 0⟩
  | .add256 rd rs1 rs2 => ⟨0x10, 3, .ofFin rd, .ofFin rs1, .ofFin rs2, 0, 0⟩
  | .mul128 rd rs1 => ⟨0x11, 1, .ofFin rd, .ofFin rs1, 0, 0, 0⟩
  | .mul192 rd rs1 => ⟨0x11, 2, .ofFin rd, .ofFin rs1, 0, 0, 0⟩
  | .mul256 rd rs1 => ⟨0x11, 3, .ofFin rd, .ofFin rs1, 0, 0, 0⟩
  | .divc128 rd rs1 c => ⟨0x12, 1, .ofFin rd, .ofFin rs1, 0, 0, c.code.setWidth 10⟩
  | .divc192 rd rs1 c => ⟨0x12, 2, .ofFin rd, .ofFin rs1, 0, 0, c.code.setWidth 10⟩
  | .divc256 rd rs1 c => ⟨0x12, 3, .ofFin rd, .ofFin rs1, 0, 0, c.code.setWidth 10⟩
  | .shl128 rd rs1 => ⟨0x18, 1, .ofFin rd, .ofFin rs1, 0, 0, 0⟩
  | .shl192 rd rs1 => ⟨0x18, 2, .ofFin rd, .ofFin rs1, 0, 0, 0⟩
  | .shl256 rd rs1 => ⟨0x18, 3, .ofFin rd, .ofFin rs1, 0, 0, 0⟩
  | .shli128 rd rs1 n => ⟨0x19, 1, .ofFin rd, .ofFin rs1, 0, 0, .ofNat 10 n⟩
  | .shli192 rd rs1 n => ⟨0x19, 2, .ofFin rd, .ofFin rs1, 0, 0, .ofNat 10 n⟩
  | .shli256 rd rs1 n => ⟨0x19, 3, .ofFin rd, .ofFin rs1, 0, 0, .ofNat 10 n⟩
  | .clz128 rs1 => ⟨0x1A, 1, 0, .ofFin rs1, 0, 0, 0⟩
  | .clz192 rs1 => ⟨0x1A, 2, 0, .ofFin rs1, 0, 0, 0⟩
  | .clz256 rs1 => ⟨0x1A, 3, 0, .ofFin rs1, 0, 0, 0⟩
  | .clzt128 rs1 => ⟨0x1B, 1, 0, .ofFin rs1, 0, 0, 0⟩
  | .clzt192 rs1 => ⟨0x1B, 2, 0, .ofFin rs1, 0, 0, 0⟩
  | .clzt256 rs1 => ⟨0x1B, 3, 0, .ofFin rs1, 0, 0, 0⟩
  | .rnd rd rs1 tf neg => ⟨0x20, 1, .ofFin rd, .ofFin rs1, 0, 0, 0#7 ++ BitVec.ofBool neg ++ tf.code⟩
  | .nop => ⟨0x30, 0, 0, 0, 0, 0, 0⟩
  | .rdsr sr => ⟨0x31, 0, 0, 0, 0, 0, .ofNat 10 sr⟩
  | .wrsr sr => ⟨0x32, 0, 0, 0, 0, 0, .ofNat 10 sr⟩
  | .clrst m => ⟨0x33, 0, 0, 0, 0, 0, m.setWidth 10⟩

/-- The command word of a well-formed instruction (30_encoding.md R46, R50). -/
def encode (i : Instr) : CmdWord := i.fields.toWord

/-- The instruction's row of spec/opcode_table.json, by its mnemonic. -/
def Instr.mnemonic : Instr → String
  | .setw128 _ => "SETW.128"
  | .setw192 _ => "SETW.192"
  | .setw256 _ => "SETW.256"
  | .insw _ _ => "INSW"
  | .rdw _ _ => "RDW"
  | .widen128 _ _ => "WIDEN.128"
  | .widen192 _ _ => "WIDEN.192"
  | .widen256 _ _ => "WIDEN.256"
  | .narrow128 _ _ => "NARROW.128"
  | .narrow192 _ _ => "NARROW.192"
  | .narrow256 _ _ => "NARROW.256"
  | .add128 _ _ _ => "ADD.128"
  | .add192 _ _ _ => "ADD.192"
  | .add256 _ _ _ => "ADD.256"
  | .mul128 _ _ => "MUL.128"
  | .mul192 _ _ => "MUL.192"
  | .mul256 _ _ => "MUL.256"
  | .divc128 _ _ _ => "DIVC.128"
  | .divc192 _ _ _ => "DIVC.192"
  | .divc256 _ _ _ => "DIVC.256"
  | .shl128 _ _ => "SHL.128"
  | .shl192 _ _ => "SHL.192"
  | .shl256 _ _ => "SHL.256"
  | .shli128 _ _ _ => "SHLI.128"
  | .shli192 _ _ _ => "SHLI.192"
  | .shli256 _ _ _ => "SHLI.256"
  | .clz128 _ => "CLZ.128"
  | .clz192 _ => "CLZ.192"
  | .clz256 _ => "CLZ.256"
  | .clzt128 _ => "CLZT.128"
  | .clzt192 _ => "CLZT.192"
  | .clzt256 _ => "CLZT.256"
  | .rnd _ _ _ _ => "RND"
  | .nop => "NOP"
  | .rdsr _ => "RDSR"
  | .wrsr _ => "WRSR"
  | .clrst _ => "CLRST"

/-- A row of the opcode table: a word selects it when the word under `mask` equals `pattern` (30_encoding.md R50,
where `pattern` is the column "match"). -/
structure OpcodeRow where
  /-- The row's mnemonic with its width suffix. -/
  mnemonic : String
  /-- The column "match" of R50, with the width select added. -/
  pattern : CmdWord
  /-- The column "mask" of R50. -/
  mask : CmdWord
deriving DecidableEq, Repr

/-- `insn & mask == match` (30_encoding.md R50). -/
def OpcodeRow.selects (r : OpcodeRow) (w : CmdWord) : Bool := w &&& r.mask == r.pattern

/-- The opcode table as R50 writes it (30_encoding.md), a second account of the encoding beside the decoder's
fields. -/
def opcodeTable : List OpcodeRow :=
  [⟨"SETW.128", 0x01400000#32, 0xFFC7FFFF#32⟩,
   ⟨"SETW.192", 0x01800000#32, 0xFFC7FFFF#32⟩,
   ⟨"SETW.256", 0x01C00000#32, 0xFFC7FFFF#32⟩,
   ⟨"INSW", 0x02000000#32, 0xFFC7FFFC#32⟩,
   ⟨"RDW", 0x03000000#32, 0xFFF8FFFC#32⟩,
   ⟨"WIDEN.128", 0x04400000#32, 0xFFC0FFFF#32⟩,
   ⟨"WIDEN.192", 0x04800000#32, 0xFFC0FFFF#32⟩,
   ⟨"WIDEN.256", 0x04C00000#32, 0xFFC0FFFF#32⟩,
   ⟨"NARROW.128", 0x05400000#32, 0xFFC0FFFF#32⟩,
   ⟨"NARROW.192", 0x05800000#32, 0xFFC0FFFF#32⟩,
   ⟨"NARROW.256", 0x05C00000#32, 0xFFC0FFFF#32⟩,
   ⟨"ADD.128", 0x10400000#32, 0xFFC01FFF#32⟩,
   ⟨"ADD.192", 0x10800000#32, 0xFFC01FFF#32⟩] ++
  [⟨"ADD.256", 0x10C00000#32, 0xFFC01FFF#32⟩,
   ⟨"MUL.128", 0x11400000#32, 0xFFC0FFFF#32⟩,
   ⟨"MUL.192", 0x11800000#32, 0xFFC0FFFF#32⟩,
   ⟨"MUL.256", 0x11C00000#32, 0xFFC0FFFF#32⟩,
   ⟨"DIVC.128", 0x12400000#32, 0xFFC0FFFC#32⟩,
   ⟨"DIVC.192", 0x12800000#32, 0xFFC0FFFC#32⟩,
   ⟨"DIVC.256", 0x12C00000#32, 0xFFC0FFFC#32⟩,
   ⟨"SHL.128", 0x18400000#32, 0xFFC0FFFF#32⟩,
   ⟨"SHL.192", 0x18800000#32, 0xFFC0FFFF#32⟩,
   ⟨"SHL.256", 0x18C00000#32, 0xFFC0FFFF#32⟩,
   ⟨"SHLI.128", 0x19400000#32, 0xFFC0FC00#32⟩,
   ⟨"SHLI.192", 0x19800000#32, 0xFFC0FC00#32⟩,
   ⟨"SHLI.256", 0x19C00000#32, 0xFFC0FC00#32⟩] ++
  [⟨"CLZ.128", 0x1A400000#32, 0xFFF8FFFF#32⟩,
   ⟨"CLZ.192", 0x1A800000#32, 0xFFF8FFFF#32⟩,
   ⟨"CLZ.256", 0x1AC00000#32, 0xFFF8FFFF#32⟩,
   ⟨"CLZT.128", 0x1B400000#32, 0xFFF8FFFF#32⟩,
   ⟨"CLZT.192", 0x1B800000#32, 0xFFF8FFFF#32⟩,
   ⟨"CLZT.256", 0x1BC00000#32, 0xFFF8FFFF#32⟩,
   ⟨"RND", 0x20400000#32, 0xFFC0FFF8#32⟩,
   ⟨"NOP", 0x30000000#32, 0xFFFFFFFF#32⟩,
   ⟨"RDSR", 0x31000000#32, 0xFFFFFFF0#32⟩,
   ⟨"WRSR", 0x32000000#32, 0xFFFFFFF0#32⟩,
   ⟨"CLRST", 0x33000000#32, 0xFFFFFFFC#32⟩]

/-- The instruction the decoder reads from an opcode-table row's bits: bit 0 of `w` is bit 0 of the command
word, and every bit of the word at or above `nbits` is 0. -/
def decodeTableWord (nbits w : Nat) : Option Instr :=
  match decode (BitVec.ofNat 32 (w % 2 ^ nbits)) with
  | .ok i => some i
  | .error _ => none

end Sys2Proof
end

