-- ==== Sys2Proof/Config.lean ====
section
/-! DEFINITION. What an implementation of MWAU-d128 fixes when the block is built. -/

namespace Sys2Proof

/-- The parameters the spec leaves open. There is one, `MAX_BEXP`, the largest biased exponent
(00_scope.md R4, 92_eei_decisions.md D20): "The model must require only 0 ≤ MAX_BEXP ≤ 2^31 − 2", which is
exactly the range of the type. It is an argument of the model: `Machine.State` carries it, no command
changes it, and a statement about every state holds for every value of it (notes/assumptions/5.md). -/
structure Config where
  /-- `MAX_BEXP`, 0 to 2^31 − 2. -/
  maxBexp : Fin 2147483647
deriving DecidableEq, Repr

/-- The spec's default parameter, MAX_BEXP = 12287, used by its numeric vectors (00_scope.md R4, U9).
DESIGN CHOICE, unsafe: the source gives no value (notes/assumptions/5.md). -/
def Config.default : Config := ⟨12287⟩

end Sys2Proof
end

