-- ==== Sys2Proof/Machine/State.lean ====
section
/-! DEFINITION. The state of MWAU-d128 as plain data: the complete architectural state of 10_state.md R21, and
the model's own fields for the command port (commands offered, operand of the accepted command, latest response)
and for the open parameter MAX_BEXP. -/

namespace Sys2Proof.Machine

/-- The value of a wide register that is not EMPTY: an unsigned integer of 128, 192 or 256 bits
(10_state.md R11, R12). -/
inductive Wide where
  /-- Tag U128. -/
  | u128 (v : BitVec 128)
  /-- Tag U192. -/
  | u192 (v : BitVec 192)
  /-- Tag U256. -/
  | u256 (v : BitVec 256)
deriving DecidableEq, Repr

/-- The six causes of a fault (60_exceptions.md R120: "A model's cause type has exactly the six causes
1 to 6"). A cause is reported by a response and in STATUS.ECAUSE; it is not an `Outcome.fault`. -/
inductive Cause where
  /-- Code 1: the command word matches no row of the opcode table. -/
  | illegal
  /-- Code 2: a wide register the command reads has tag EMPTY. -/
  | empty
  /-- Code 3: a wide register the command reads has a width the command does not accept. -/
  | width
  /-- Code 4: a word index or special-register number is out of range, or a WRSR names a read-only register. -/
  | index
  /-- Code 5: an operand value is reserved or malformed. -/
  | badval
  /-- Code 6: RND was handed nothing to reduce together with a non-zero truncation flag. -/
  | truncbug
deriving DecidableEq, Repr

/-- The rounding modes CTRL.RM can hold (10_state.md R16, 44_round.md R94). -/
inductive RoundMode where
  /-- 0: to nearest, ties to even. -/
  | halfEven
  /-- 1: to nearest, ties away from zero. -/
  | halfAway
  /-- 2: toward zero. -/
  | towardZero
  /-- 3: toward positive. -/
  | towardPos
  /-- 4: toward negative. -/
  | towardNeg
deriving DecidableEq, Repr

/-- RRES.CLASS (10_state.md R18). -/
inductive ResClass where
  /-- 0 NONE: no RND has completed since reset. -/
  | noResult
  /-- 1 FINITE. -/
  | finite
  /-- 2 ZERO. -/
  | zero
  /-- 3 OVERFLOW. -/
  | overflow
deriving DecidableEq, Repr

/-- STATUS, special register 0 (10_state.md R15). -/
structure Status where
  /-- Bit 0, C: carry or lost bits of the most recent ADD, MUL or NARROW. -/
  c : Bool
  /-- Bit 1, OVS: sticky overflow. -/
  ovs : Bool
  /-- Bit 2, ERR: sticky fault. -/
  err : Bool
  /-- Bits 6:3, ECAUSE: the cause of the first fault since ERR was last 0; `none` is code 0. -/
  ecause : Option Cause
deriving DecidableEq, Repr

/-- RRES, special register 3 (10_state.md R18). -/
structure RRes where
  /-- Bits 31:0, EXP: the final biased exponent, two's complement. -/
  exp : BitVec 32
  /-- Bit 32, SIGN. -/
  sign : Bool
  /-- Bits 34:33, CLASS. -/
  cls : ResClass
deriving DecidableEq, Repr

/-- A command: the pair (`insn`, `opa`) the host hands over (20_memory.md R31). -/
structure Command where
  /-- The command word. -/
  insn : CmdWord
  /-- The 64-bit operand. -/
  opa : Word
deriving DecidableEq, Repr

/-- A response: the triple (`fault`, `cause`, `res`) the block answers (20_memory.md R31). -/
structure Response where
  /-- 1 when the command faulted. -/
  fault : Bool
  /-- The fault code, 0 when `fault` is 0. -/
  cause : BitVec 4
  /-- The result word. -/
  res : Word
deriving DecidableEq, Repr

/-- Reasons for which the machine could stop with a fault. There is none: a fault of the block is a refused
command after which the block goes on (60_exceptions.md R123: "The block does not stop"), so it is a next state
(notes/assumptions/7.md). Safe: nothing raises it. -/
inductive Fault where
deriving DecidableEq, Repr

/-- Reasons for which an instruction could be refused. -/
inductive Refusal where
  /-- Raised by an arm of `exec` for an instruction that has no meaning yet. No arm raises it. Safe: a run
  that would meet one stops. -/
  | notModelled (mnemonic : String)
deriving DecidableEq, Repr

/-- The state of the machine. `regs`, `status`, `rm`, `rem` and `rres` are the complete architectural state of
the block (10_state.md R21); TAGS is a view of `regs` (R19). The other fields are the model's own. -/
structure State where
  /-- W0 to W7 (10_state.md R10); `none` is the tag EMPTY (R12, R13). -/
  regs : Vector (Option Wide) 8
  /-- STATUS (10_state.md R15). -/
  status : Status
  /-- CTRL.RM (10_state.md R16). -/
  rm : RoundMode
  /-- REM: the remainder of the most recent fault-free DIVC (10_state.md R17). -/
  rem : Word
  /-- RRES: the exponent, sign and class of the most recent fault-free RND (10_state.md R18). -/
  rres : RRes
  /-- The open parameter MAX_BEXP (00_scope.md R4), which no command changes (notes/assumptions/5.md). -/
  config : Config
  /-- The commands the host has offered and the block has not accepted, next one first
  (notes/assumptions/1.md). -/
  cmds : List Command
  /-- The operand `opa` of the command being executed (notes/assumptions/3.md). -/
  opa : Word
  /-- The response to the last accepted command, if one was accepted since reset (notes/assumptions/4.md). -/
  rsp : Option Response
deriving DecidableEq, Repr

/-- The machine right after reset (10_state.md R22, 70_reset_and_hazards.md R140): every tag EMPTY, STATUS,
CTRL, REM and RRES zero. The model's own fields: MAX_BEXP at the spec's default, no command offered,
no response. -/
def State.reset : State where
  regs := Vector.replicate 8 none
  status := ⟨false, false, false, none⟩
  rm := .halfEven
  rem := 0
  rres := ⟨0, false, .noResult⟩
  config := Config.default
  cmds := []
  opa := 0
  rsp := none

end Sys2Proof.Machine
end

