-- ==== Sys2Proof/Machine/Ops.lean ====
section
/-! DEFINITION. The named operations over the state of MWAU-d128: reading and writing wide registers, accepting a
command, answering it, and entering a fault and clearing it (00_scope.md R7, 20_memory.md R31, 60_exceptions.md
R124, R126). -/

namespace Sys2Proof

/-- The number of bits of a width (00_scope.md R4, `WIDTHS`). -/
def Width.bits : Width → Nat
  | .w128 => 128
  | .w192 => 192
  | .w256 => 256

/-- The number of 64-bit words of a width (00_scope.md R4, `nwords`). -/
def Width.words : Width → Nat
  | .w128 => 2
  | .w192 => 3
  | .w256 => 4

/-- The tag code of a width, the same number as the WS field (10_state.md R12). -/
def Width.code : Width → BitVec 2
  | .w128 => 1
  | .w192 => 2
  | .w256 => 3

end Sys2Proof

namespace Sys2Proof.Machine

/-! ### Values of wide registers -/

/-- The tag of a value (10_state.md R12). -/
def Wide.width : Wide → Width
  | .u128 _ => .w128
  | .u192 _ => .w192
  | .u256 _ => .w256

/-- The unsigned integer a value stands for (10_state.md R11). -/
def Wide.toNat : Wide → Nat
  | .u128 v => v.toNat
  | .u192 v => v.toNat
  | .u256 v => v.toNat

/-- The value (U_w, n mod 2^w): what a command that computes `n` at width `w` writes (00_scope.md R7). -/
def Wide.ofNat : Width → Nat → Wide
  | .w128, n => .u128 (BitVec.ofNat 128 n)
  | .w192, n => .u192 (BitVec.ofNat 192 n)
  | .w256, n => .u256 (BitVec.ofNat 256 n)

/-- `word(v, j)`: bits 64j+63 to 64j of a value (00_scope.md R6). -/
def wordOf (v j : Nat) : Word := BitVec.ofNat 64 (v / 2 ^ (64 * j))

/-- The value `v` with word `j` replaced by `x` (40_move.md R61). -/
def replaceWord (v j : Nat) (x : Word) : Nat :=
  v - (wordOf v j).toNat * 2 ^ (64 * j) + x.toNat * 2 ^ (64 * j)

/-! ### Wide registers -/

/-- Read of wide register `r`; `none` when its tag is EMPTY (00_scope.md R7, `W[i]`). -/
def State.wide (s : State) (r : WReg) : Option Wide := s.regs.get r

/-- `W[r] <- (U_w, n mod 2^w)` (00_scope.md R7). -/
def State.setWide (s : State) (r : WReg) (w : Width) (n : Nat) : State :=
  { s with regs := s.regs.set r.val (some (Wide.ofNat w n)) r.isLt }

/-! ### Special registers -/

/-- `CTRL.RM <- m` (10_state.md R16). -/
def State.setRm (s : State) (m : RoundMode) : State := { s with rm := m }

/-- `REM <- v` (10_state.md R17). -/
def State.setRem (s : State) (v : Word) : State := { s with rem := v }

/-- `RRES <- r` (10_state.md R18). -/
def State.setRres (s : State) (r : RRes) : State := { s with rres := r }

/-! ### Codes -/

/-- The cause code (60_exceptions.md R120). -/
def Cause.code : Cause → BitVec 4
  | .illegal => 1
  | .empty => 2
  | .width => 3
  | .index => 4
  | .badval => 5
  | .truncbug => 6

/-- The number of a rounding mode (10_state.md R16). -/
def RoundMode.code : RoundMode → BitVec 3
  | .halfEven => 0
  | .halfAway => 1
  | .towardZero => 2
  | .towardPos => 3
  | .towardNeg => 4

/-- The rounding mode of a number, `none` for the reserved 5, 6 and 7 (10_state.md R16). -/
def RoundMode.ofCode (c : BitVec 3) : Option RoundMode :=
  match c with
  | 0#3 => some .halfEven
  | 1#3 => some .halfAway
  | 2#3 => some .towardZero
  | 3#3 => some .towardPos
  | 4#3 => some .towardNeg
  | _ => none

/-- The code of a result class (10_state.md R18). -/
def ResClass.code : ResClass → BitVec 2
  | .noResult => 0
  | .finite => 1
  | .zero => 2
  | .overflow => 3

/-- The tag code of a wide register, 0 for EMPTY (10_state.md R12). -/
def tagCode : Option Wide → BitVec 2
  | none => 0
  | some x => x.width.code

/-! ### The command port -/

/-- The port takes the command `c`; `rest` is what the host has offered after it (20_memory.md R32). -/
def State.accept (s : State) (c : Command) (rest : List Command) : State :=
  { s with cmds := rest, opa := c.opa }

/-- The block presents the response of a command that completed without fault (20_memory.md R31: `fault` 0,
`cause` 0). -/
def State.answer (s : State) (res : Word) : State :=
  { s with rsp := some ⟨false, 0, res⟩ }

/-- The host's next command gets the command word `insn`; its operand stays, and is 0 where no command was offered
(notes/assumptions/13.md). -/
def State.placeCommand (s : State) (insn : CmdWord) : State :=
  match s.cmds with
  | [] => { s with cmds := [⟨insn, 0⟩] }
  | c :: rest => { s with cmds := ⟨insn, c.opa⟩ :: rest }

/-! ### Taking a fault, and clearing it -/

/-- `raise Fault(c)`: fault entry (60_exceptions.md R124). STATUS.ECAUSE captures the first cause since ERR was
last 0, ERR is set, the response is (1, c, 0), and nothing else changes. -/
def State.raise (s : State) (c : Cause) : State :=
  { s with
    status := { s.status with err := true, ecause := if s.status.err then s.status.ecause else some c }
    rsp := some ⟨true, c.code, 0⟩ }

/-- What takes the place of a return from the fault: STATUS.ERR and STATUS.ECAUSE are cleared together
(60_exceptions.md R126, 45_system.md R113). A fault saved nothing, so nothing is restored. -/
def State.clearFault (s : State) : State :=
  { s with status := { s.status with err := false, ecause := none } }

/-- How a command ends: with the state its rule gives, or, when a check of its rule failed, squashed, with the
fault entered on the state before it (00_scope.md R8 (b), 60_exceptions.md R124). -/
def State.settle (s : State) : Except Cause State → Host.Outcome State Fault Refusal
  | .ok t => .next t
  | .error c => .next (s.raise c)

end Sys2Proof.Machine
end

