-- ==== Sys2Proof/Machine/Operands.lean ====
section
/-! DEFINITION. The operand forms of the commands of MWAU-d128: wide-register sources with their tag checks, the
divisor table, the signed exponent in `opa`, the truncation flag, and the constants of the rounding engine
(00_scope.md R4, R7; 30_encoding.md R48). -/

namespace Sys2Proof.Machine

/-! ### Wide-register sources -/

/-- `req_any(r)` and the read after it: the value of `r`, or EMPTY (00_scope.md R7). -/
def State.reqAny (s : State) (r : WReg) : Except Cause Wide :=
  match s.wide r with
  | none => .error .empty
  | some x => .ok x

/-- `req(r, w)` and the read after it: the integer in `r`, which must have width `w`, or EMPTY, or WIDTH
(00_scope.md R7). -/
def State.req (s : State) (r : WReg) (w : Width) : Except Cause Nat :=
  match s.wide r with
  | none => .error .empty
  | some x => if x.width = w then .ok x.toNat else .error .width

/-- The two sources of ADD: EMPTY when either is EMPTY, else WIDTH when either has another width than `w`
(41_addmul.md R70, 60_exceptions.md R122). -/
def State.reqBoth (s : State) (r1 r2 : WReg) (w : Width) : Except Cause (Nat × Nat) :=
  match s.wide r1, s.wide r2 with
  | some x, some y => if x.width = w ∧ y.width = w then .ok (x.toNat, y.toNat) else .error .width
  | _, _ => .error .empty

/-- A register and a word index into it: the value of `r`, or EMPTY, or INDEX when the register has no word `i`
(40_move.md R61, R62; 20_memory.md R38). -/
def State.reqWord (s : State) (r : WReg) (i : Nat) : Except Cause Wide :=
  match s.reqAny r with
  | .error c => .error c
  | .ok x => if x.width.words ≤ i then .error .index else .ok x

/-! ### Constants -/

/-- `DIVISOR[c]` (42_divide.md R75). -/
def divisorValue : Divisor → Nat
  | .d10 => 10
  | .d1e4 => 10000
  | .d19n => 9999999999999999999
  | .d1e19 => 10000000000000000000

/-- `LIMIT` = 10^34: a final significand is below it (00_scope.md R4). -/
def limit : Nat := 10 ^ 34

/-! ### Operands of RND -/

/-- `signed32(v)` (00_scope.md R7). -/
def signed32 (v : Word) : Int := (v.extractLsb' 0 32).toInt

/-- `opa == sext_64(opa[31:0])` (44_round.md R92). -/
def isSext32 (v : Word) : Bool := v == (v.extractLsb' 0 32).signExtend 64

/-- The value t of the truncation flag (44_round.md R93). -/
inductive TruncFlag where
  /-- t = 0, EXACT: nothing was discarded earlier. -/
  | exact
  /-- t = −1, BELOW: the exact magnitude is greater than the significand. -/
  | below
  /-- t = +1, ABOVE: the exact magnitude is less than the significand. -/
  | above
deriving DecidableEq, Repr

/-- The value of the field `tf`; none for the reserved code (44_round.md R93). -/
def truncValue : TruncField → Option TruncFlag
  | .exact => some .exact
  | .above => some .above
  | .below => some .below
  | .reserved => none

end Sys2Proof.Machine
end

