-- ==== Sys2Proof/Machine/Flags.lean ====
section
/-! DEFINITION. The flags of MWAU-d128 and the words the special registers read as: STATUS.C and STATUS.OVS
(10_state.md R15), and the layouts of STATUS, CTRL, RRES and TAGS (10_state.md R15 to R19). -/

namespace Sys2Proof.Machine

/-- The flag writes of ADD, MUL and NARROW: C gets whether the exact result did not fit, OVS becomes 1 when C is
written with 1 and is never cleared here (10_state.md R15; 41_addmul.md R70, R71; 40_move.md R64). -/
def State.setCarry (s : State) (lost : Bool) : State :=
  { s with status := { s.status with c := lost, ovs := s.status.ovs || lost } }

/-- Whether the exact result `n` does not fit width `w` (41_addmul.md R70, R71; 40_move.md R64). -/
def lostBits (w : Width) (n : Nat) : Bool := decide (2 ^ w.bits ≤ n)

/-- Clearing of STATUS.OVS (45_system.md R113). -/
def State.clearOvs (s : State) : State :=
  { s with status := { s.status with ovs := false } }

/-- The 4-bit STATUS.ECAUSE (10_state.md R15). -/
def ecauseCode : Option Cause → BitVec 4
  | none => 0
  | some c => c.code

/-- STATUS as RDSR reads it: ECAUSE in bits 6:3, ERR, OVS, C in bits 2, 1, 0 (10_state.md R15, 45_system.md
R111). -/
def Status.toWord (t : Status) : Word :=
  0#57 ++ ecauseCode t.ecause ++ BitVec.ofBool t.err ++ BitVec.ofBool t.ovs ++ BitVec.ofBool t.c

/-- CTRL as RDSR reads it: RM in bits 2:0 (10_state.md R16). -/
def RoundMode.toWord (m : RoundMode) : Word := 0#61 ++ m.code

/-- RRES as RDSR reads it, and `pack(e3, neg, class)`, the result word of RND: CLASS in bits 34:33, SIGN in
bit 32, EXP in bits 31:0 (10_state.md R18, 44_round.md R101). -/
def RRes.toWord (r : RRes) : Word := 0#29 ++ r.cls.code ++ BitVec.ofBool r.sign ++ r.exp

/-- TAGS as RDSR reads it: the tag code of Wi in bits 2i+1:2i (10_state.md R19). -/
def State.tagsWord (s : State) : Word :=
  0#48 ++ tagCode (s.wide 7) ++ tagCode (s.wide 6) ++ tagCode (s.wide 5) ++ tagCode (s.wide 4) ++
    tagCode (s.wide 3) ++ tagCode (s.wide 2) ++ tagCode (s.wide 1) ++ tagCode (s.wide 0)

end Sys2Proof.Machine
end

