-- ==== Sys2Proof/Machine/AddMul.lean ====
section
/-! DEFINITION. Adder and multiplier: ADD, MUL (41_addmul.md R70 to R74). -/

namespace Sys2Proof.Machine

/-- ADD: the sum modulo 2^w, C and OVS report a carry out of bit w − 1; there is no carry-in (41_addmul.md R70). -/
def addBody (w : Width) (rd rs1 rs2 : WReg) (s : State) : Except Cause State :=
  match s.reqBoth rs1 rs2 w with
  | .error c => .error c
  | .ok (x, y) => .ok (((s.setWide rd w (x + y)).setCarry (lostBits w (x + y))).answer 0)

/-- MUL: the product by the 64-bit multiplier `opa` modulo 2^w, C and OVS report whether the exact product has a
bit at or above bit w (41_addmul.md R71). -/
def mulBody (w : Width) (rd rs1 : WReg) (s : State) : Except Cause State :=
  match s.req rs1 w with
  | .error c => .error c
  | .ok x =>
    .ok (((s.setWide rd w (x * s.opa.toNat)).setCarry (lostBits w (x * s.opa.toNat))).answer 0)

/-- `ADD.128` (41_addmul.md R70). -/
def execAdd128 (rd rs1 rs2 : WReg) (s : State) : Host.Outcome State Fault Refusal :=
  s.settle (addBody .w128 rd rs1 rs2 s)

/-- `ADD.192` (41_addmul.md R70). -/
def execAdd192 (rd rs1 rs2 : WReg) (s : State) : Host.Outcome State Fault Refusal :=
  s.settle (addBody .w192 rd rs1 rs2 s)

/-- `ADD.256` (41_addmul.md R70). -/
def execAdd256 (rd rs1 rs2 : WReg) (s : State) : Host.Outcome State Fault Refusal :=
  s.settle (addBody .w256 rd rs1 rs2 s)

/-- `MUL.128` (41_addmul.md R71). -/
def execMul128 (rd rs1 : WReg) (s : State) : Host.Outcome State Fault Refusal :=
  s.settle (mulBody .w128 rd rs1 s)

/-- `MUL.192` (41_addmul.md R71). -/
def execMul192 (rd rs1 : WReg) (s : State) : Host.Outcome State Fault Refusal :=
  s.settle (mulBody .w192 rd rs1 s)

/-- `MUL.256` (41_addmul.md R71). -/
def execMul256 (rd rs1 : WReg) (s : State) : Host.Outcome State Fault Refusal :=
  s.settle (mulBody .w256 rd rs1 s)

end Sys2Proof.Machine
end

