-- ==== Sys2Proof/Machine/Divide.lean ====
section
/-! DEFINITION. The divider by constant divisors: DIVC (42_divide.md R75 to R78). -/

namespace Sys2Proof.Machine

/-- DIVC: the floor quotient by `DIVISOR[c]` at the width of the dividend, and the remainder in REM; C and OVS are
unchanged and there is no division by zero (42_divide.md R76). -/
def divcBody (w : Width) (rd rs1 : WReg) (c : Divisor) (s : State) : Except Cause State :=
  match s.req rs1 w with
  | .error e => .error e
  | .ok v =>
    .ok (((s.setWide rd w (v / divisorValue c)).setRem (BitVec.ofNat 64 (v % divisorValue c))).answer 0)

/-- `DIVC.128` (42_divide.md R76). -/
def execDivc128 (rd rs1 : WReg) (c : Divisor) (s : State) : Host.Outcome State Fault Refusal :=
  s.settle (divcBody .w128 rd rs1 c s)

/-- `DIVC.192` (42_divide.md R76). -/
def execDivc192 (rd rs1 : WReg) (c : Divisor) (s : State) : Host.Outcome State Fault Refusal :=
  s.settle (divcBody .w192 rd rs1 c s)

/-- `DIVC.256` (42_divide.md R76). -/
def execDivc256 (rd rs1 : WReg) (c : Divisor) (s : State) : Host.Outcome State Fault Refusal :=
  s.settle (divcBody .w256 rd rs1 c s)

end Sys2Proof.Machine
end

