-- ==== Sys2Proof/Machine/Move.lean ====
section
/-! DEFINITION. Data movement and width conversion: SETW, INSW, RDW, WIDEN, NARROW (40_move.md R60 to R65). -/

namespace Sys2Proof.Machine

/-- SETW: the value of `opa`, zero-extended to width `w`; the old tag and value of `rd` do not matter
(40_move.md R60). -/
def setwBody (w : Width) (rd : WReg) (s : State) : Except Cause State :=
  .ok ((s.setWide rd w s.opa.toNat).answer 0)

/-- INSW: word `i` of `rd` becomes `opa`; the tag stays (40_move.md R61). -/
def inswBody (rd : WReg) (i : Nat) (s : State) : Except Cause State :=
  match s.reqWord rd i with
  | .error c => .error c
  | .ok x => .ok ((s.setWide rd x.width (replaceWord x.toNat i s.opa)).answer 0)

/-- RDW: answers word `i` of `rs1`; no state changes (40_move.md R62). -/
def rdwBody (rs1 : WReg) (i : Nat) (s : State) : Except Cause State :=
  match s.reqWord rs1 i with
  | .error c => .error c
  | .ok x => .ok (s.answer (wordOf x.toNat i))

/-- WIDEN: the same integer at width `w`; WIDTH when the source is wider (40_move.md R63). -/
def widenBody (w : Width) (rd rs1 : WReg) (s : State) : Except Cause State :=
  match s.reqAny rs1 with
  | .error c => .error c
  | .ok x => if w.bits < x.width.bits then .error .width else .ok ((s.setWide rd w x.toNat).answer 0)

/-- NARROW: the low `w` bits, C and OVS report whether a discarded bit was 1; WIDTH when the source is narrower
(40_move.md R64). -/
def narrowBody (w : Width) (rd rs1 : WReg) (s : State) : Except Cause State :=
  match s.reqAny rs1 with
  | .error c => .error c
  | .ok x =>
    if x.width.bits < w.bits then .error .width
    else .ok (((s.setWide rd w x.toNat).setCarry (lostBits w x.toNat)).answer 0)

/-- `SETW.128` (40_move.md R60). -/
def execSetw128 (rd : WReg) (s : State) : Host.Outcome State Fault Refusal :=
  s.settle (setwBody .w128 rd s)

/-- `SETW.192` (40_move.md R60). -/
def execSetw192 (rd : WReg) (s : State) : Host.Outcome State Fault Refusal :=
  s.settle (setwBody .w192 rd s)

/-- `SETW.256` (40_move.md R60). -/
def execSetw256 (rd : WReg) (s : State) : Host.Outcome State Fault Refusal :=
  s.settle (setwBody .w256 rd s)

/-- `INSW` (40_move.md R61). -/
def execInsw (rd : WReg) (i : Nat) (s : State) : Host.Outcome State Fault Refusal :=
  s.settle (inswBody rd i s)

/-- `RDW` (40_move.md R62). -/
def execRdw (rs1 : WReg) (i : Nat) (s : State) : Host.Outcome State Fault Refusal :=
  s.settle (rdwBody rs1 i s)

/-- `WIDEN.128` (40_move.md R63). -/
def execWiden128 (rd rs1 : WReg) (s : State) : Host.Outcome State Fault Refusal :=
  s.settle (widenBody .w128 rd rs1 s)

/-- `WIDEN.192` (40_move.md R63). -/
def execWiden192 (rd rs1 : WReg) (s : State) : Host.Outcome State Fault Refusal :=
  s.settle (widenBody .w192 rd rs1 s)

/-- `WIDEN.256` (40_move.md R63). -/
def execWiden256 (rd rs1 : WReg) (s : State) : Host.Outcome State Fault Refusal :=
  s.settle (widenBody .w256 rd rs1 s)

/-- `NARROW.128` (40_move.md R64). -/
def execNarrow128 (rd rs1 : WReg) (s : State) : Host.Outcome State Fault Refusal :=
  s.settle (narrowBody .w128 rd rs1 s)

/-- `NARROW.192` (40_move.md R64). -/
def execNarrow192 (rd rs1 : WReg) (s : State) : Host.Outcome State Fault Refusal :=
  s.settle (narrowBody .w192 rd rs1 s)

/-- `NARROW.256` (40_move.md R64). -/
def execNarrow256 (rd rs1 : WReg) (s : State) : Host.Outcome State Fault Refusal :=
  s.settle (narrowBody .w256 rd rs1 s)

end Sys2Proof.Machine
end

