-- ==== Sys2Proof/Machine/Round.lean ====
section
/-! DEFINITION. The 34-digit significand normalizer and rounding-mode engine: RND (44_round.md R90 to R108). -/

namespace Sys2Proof.Machine

/-! ### Normalization -/

/-- How many times `s` must be divided by 10 until it is below LIMIT, counted for at most `fuel` divisions. -/
def digitsOver : Nat → Nat → Nat
  | 0, _ => 0
  | fuel + 1, s => if s < limit then 0 else digitsOver fuel (s / 10) + 1

/-- The number of digits dropped, k: the least natural number with (s div 10^k) < LIMIT and e + k ≥ 0, computed as
max(kd, −e, 0) (44_round.md R96). For s < 2^128, kd is at most 5, so the six divisions suffice. -/
def dropCount (s : Nat) (e : Int) : Nat := max (digitsOver 6 s) (-e).toNat

/-! ### Rounding -/

/-- The position of the exact magnitude inside [q, q + 1) (44_round.md R98). -/
inductive Position where
  /-- It is q. -/
  | exact
  /-- It is above q and below the half-way point. -/
  | belowHalf
  /-- It is the half-way point. -/
  | half
  /-- It is above the half-way point. -/
  | aboveHalf
deriving DecidableEq, Repr

/-- `position(q, R, k, t)` with `half` = 5·10^(k−1): the quotient, lowered by one when R = 0 and the exact value is
just under it, and the position of the exact value (44_round.md R98). -/
def position (q r half : Nat) (t : TruncFlag) : Nat × Position :=
  if r = 0 then
    match t with
    | .above => (q - 1, .aboveHalf)
    | .exact => (q, .exact)
    | .below => (q, .belowHalf)
  else if r < half then (q, .belowHalf)
  else if half < r then (q, .aboveHalf)
  else
    match t with
    | .exact => (q, .half)
    | .below => (q, .aboveHalf)
    | .above => (q, .belowHalf)

/-- `increment(RM, pos, q, neg)`: whether the kept significand is raised by one unit (44_round.md R99). -/
def increment (m : RoundMode) (p : Position) (q : Nat) (neg : Bool) : Bool :=
  match m with
  | .halfEven => decide (p = .aboveHalf) || (decide (p = .half) && decide (q % 2 = 1))
  | .halfAway => decide (p = .aboveHalf) || decide (p = .half)
  | .towardZero => false
  | .towardPos => decide (p ≠ .exact) && !neg
  | .towardNeg => decide (p ≠ .exact) && neg

/-- The rounding of `s` after `k` ≥ 1 digits are dropped, before the renormalization of R100: q + inc
(44_round.md R98, R99). For k ≥ 39 the divisor 10^39 stands for 10^k: quotient 0, remainder s and "below half" are
the same (R96: "a model must not build 10^k for large k"; notes/assumptions/11.md). -/
def roundedQuotient (m : RoundMode) (neg : Bool) (t : TruncFlag) (s k : Nat) : Nat :=
  let d := min k 39
  let p := position (s / 10 ^ d) (s % 10 ^ d) (5 * 10 ^ (d - 1)) t
  p.1 + (increment m p.2 p.1 neg).toNat

/-- R100: a significand that reached LIMIT is divided by 10 once more and the exponent raised (44_round.md). -/
def renormalize (q : Nat) (e : Int) : Nat × Int :=
  if q = limit then (limit / 10, e + 1) else (q, e)

/-- The final significand q2 and exponent e2 of RND, or TRUNCBUG: nothing to drop (44_round.md R97), or drop,
round and renormalize (R98 to R100). -/
def reduce (maxBexp : Nat) (m : RoundMode) (neg : Bool) (t : TruncFlag) (s : Nat) (e : Int) :
    Except Cause (Nat × Int) :=
  let k := dropCount s e
  if k = 0 then
    if s ≠ 0 ∧ (maxBexp : Int) < e then .ok (s, e)
    else if t = .exact then .ok (s, e)
    else .error .truncbug
  else .ok (renormalize (roundedQuotient m neg t s k) (e + k))

/-! ### Classification -/

/-- The contents of RRES for a final significand and exponent: ZERO with the exponent clamped to MAX_BEXP,
OVERFLOW with the exponent saturated at 2^31 − 1, else FINITE (44_round.md R101 to R103). -/
def classify (maxBexp : Nat) (neg : Bool) (q2 : Nat) (e2 : Int) : RRes :=
  if q2 = 0 then ⟨BitVec.ofInt 32 (min e2 maxBexp), neg, .zero⟩
  else if (maxBexp : Int) < e2 then ⟨BitVec.ofInt 32 (min e2 (2 ^ 31 - 1)), neg, .overflow⟩
  else ⟨BitVec.ofInt 32 e2, neg, .finite⟩

/-- RND's check (3): BADVAL when `tf` is reserved, when `opa` is not a sign-extended 32-bit number, or when a zero
significand comes with the flag ABOVE; else the value of the flag (44_round.md R95). -/
def rndFlag (tf : TruncField) (opa : Word) (s : Nat) : Except Cause TruncFlag :=
  match truncValue tf with
  | none => .error .badval
  | some t =>
    if isSext32 opa = false then .error .badval
    else if s = 0 ∧ t = .above then .error .badval
    else .ok t

/-- RND (44_round.md R90): checks in the order EMPTY, WIDTH, BADVAL, TRUNCBUG (R95); the final significand goes to
`rd` with tag U128, exponent, sign and class to RRES and to the response (R101); nothing else is written (R104). -/
def rndBody (rd rs1 : WReg) (tf : TruncField) (neg : Bool) (s : State) : Except Cause State :=
  match s.req rs1 .w128 with
  | .error c => .error c
  | .ok v =>
    match rndFlag tf s.opa v with
    | .error c => .error c
    | .ok t =>
      match reduce s.config.maxBexp.val s.rm neg t v (signed32 s.opa) with
      | .error c => .error c
      | .ok (q2, e2) =>
        let r := classify s.config.maxBexp.val neg q2 e2
        .ok (((s.setWide rd .w128 q2).setRres r).answer r.toWord)

/-- `RND` (44_round.md R90). -/
def execRnd (rd rs1 : WReg) (tf : TruncField) (neg : Bool) (s : State) : Host.Outcome State Fault Refusal :=
  s.settle (rndBody rd rs1 tf neg s)

end Sys2Proof.Machine
end

