-- ==== Sys2Proof/Machine/ShiftClz.lean ====
section
/-! DEFINITION. Left shifter and leading-zero counter: SHL, SHLI, CLZ, CLZT (43_shift_clz.md R80 to R84). -/

namespace Sys2Proof.Machine

/-- A value of width `w` shifted left by `n`: (v * 2^n) mod 2^w, which is 0 for every n at or above w
(43_shift_clz.md R80; "a model need not build 2^n for a huge n"). -/
def shiftLeft (w : Width) (v n : Nat) : Nat :=
  if w.bits ≤ n then 0 else v * 2 ^ n % 2 ^ w.bits

/-- The number of 0 bits above the highest 1 bit of a `bits`-bit number, `bits` for 0 (43_shift_clz.md R82, R83). -/
def leadingZeros (bits v : Nat) : Nat :=
  if v = 0 then bits else bits - 1 - Nat.log2 v

/-- SHL and SHLI after their amount is known: no flag is written, bits shifted out are lost without report
(43_shift_clz.md R80, R81). -/
def shiftBody (w : Width) (rd rs1 : WReg) (n : Nat) (s : State) : Except Cause State :=
  match s.req rs1 w with
  | .error c => .error c
  | .ok v => .ok ((s.setWide rd w (shiftLeft w v n)).answer 0)

/-- SHL: the amount is all 64 bits of `opa` (43_shift_clz.md R80). -/
def shlBody (w : Width) (rd rs1 : WReg) (s : State) : Except Cause State :=
  shiftBody w rd rs1 s.opa.toNat s

/-- SHLI: the amount is the immediate; `opa` is ignored (43_shift_clz.md R81). -/
def shliBody (w : Width) (rd rs1 : WReg) (n : Nat) (s : State) : Except Cause State :=
  shiftBody w rd rs1 n s

/-- CLZ: answers the leading zeros of the whole value; no state changes (43_shift_clz.md R82). -/
def clzBody (w : Width) (rs1 : WReg) (s : State) : Except Cause State :=
  match s.req rs1 w with
  | .error c => .error c
  | .ok v => .ok (s.answer (BitVec.ofNat 64 (leadingZeros w.bits v)))

/-- CLZT: answers the leading zeros of the most significant word; no state changes (43_shift_clz.md R83). -/
def clztBody (w : Width) (rs1 : WReg) (s : State) : Except Cause State :=
  match s.req rs1 w with
  | .error c => .error c
  | .ok v => .ok (s.answer (BitVec.ofNat 64 (leadingZeros 64 (wordOf v (w.words - 1)).toNat)))

/-- `SHL.128` (43_shift_clz.md R80). -/
def execShl128 (rd rs1 : WReg) (s : State) : Host.Outcome State Fault Refusal :=
  s.settle (shlBody .w128 rd rs1 s)

/-- `SHL.192` (43_shift_clz.md R80). -/
def execShl192 (rd rs1 : WReg) (s : State) : Host.Outcome State Fault Refusal :=
  s.settle (shlBody .w192 rd rs1 s)

/-- `SHL.256` (43_shift_clz.md R80). -/
def execShl256 (rd rs1 : WReg) (s : State) : Host.Outcome State Fault Refusal :=
  s.settle (shlBody .w256 rd rs1 s)

/-- `SHLI.128` (43_shift_clz.md R81). -/
def execShli128 (rd rs1 : WReg) (n : Nat) (s : State) : Host.Outcome State Fault Refusal :=
  s.settle (shliBody .w128 rd rs1 n s)

/-- `SHLI.192` (43_shift_clz.md R81). -/
def execShli192 (rd rs1 : WReg) (n : Nat) (s : State) : Host.Outcome State Fault Refusal :=
  s.settle (shliBody .w192 rd rs1 n s)

/-- `SHLI.256` (43_shift_clz.md R81). -/
def execShli256 (rd rs1 : WReg) (n : Nat) (s : State) : Host.Outcome State Fault Refusal :=
  s.settle (shliBody .w256 rd rs1 n s)

/-- `CLZ.128` (43_shift_clz.md R82). -/
def execClz128 (rs1 : WReg) (s : State) : Host.Outcome State Fault Refusal :=
  s.settle (clzBody .w128 rs1 s)

/-- `CLZ.192` (43_shift_clz.md R82). -/
def execClz192 (rs1 : WReg) (s : State) : Host.Outcome State Fault Refusal :=
  s.settle (clzBody .w192 rs1 s)

/-- `CLZ.256` (43_shift_clz.md R82). -/
def execClz256 (rs1 : WReg) (s : State) : Host.Outcome State Fault Refusal :=
  s.settle (clzBody .w256 rs1 s)

/-- `CLZT.128` (43_shift_clz.md R83). -/
def execClzt128 (rs1 : WReg) (s : State) : Host.Outcome State Fault Refusal :=
  s.settle (clztBody .w128 rs1 s)

/-- `CLZT.192` (43_shift_clz.md R83). -/
def execClzt192 (rs1 : WReg) (s : State) : Host.Outcome State Fault Refusal :=
  s.settle (clztBody .w192 rs1 s)

/-- `CLZT.256` (43_shift_clz.md R83). -/
def execClzt256 (rs1 : WReg) (s : State) : Host.Outcome State Fault Refusal :=
  s.settle (clztBody .w256 rs1 s)

end Sys2Proof.Machine
end

