-- ==== Sys2Proof/Machine/System.lean ====
section
/-! DEFINITION. System commands: NOP, RDSR, WRSR, CLRST (45_system.md R110 to R115). -/

namespace Sys2Proof.Machine

/-- NOP: no reads, no writes (45_system.md R110). -/
def nopBody (s : State) : Except Cause State := .ok (s.answer 0)

/-- The word special register `sr` reads as; none for the undefined numbers (20_memory.md R36, 45_system.md R111). -/
def State.specialWord (s : State) (sr : Nat) : Option Word :=
  match sr with
  | 0 => some s.status.toWord
  | 1 => some s.rm.toWord
  | 2 => some s.rem
  | 3 => some s.rres.toWord
  | 4 => some s.tagsWord
  | _ => none

/-- RDSR: answers special register `sr`, INDEX for 5 to 15; no state changes (45_system.md R111). -/
def rdsrBody (sr : Nat) (s : State) : Except Cause State :=
  match s.specialWord sr with
  | none => .error .index
  | some v => .ok (s.answer v)

/-- WRSR: only CTRL (number 1) is writable, INDEX for every other number; BADVAL when `opa` is not a legal CTRL value,
which leaves CTRL unchanged (45_system.md R112). -/
def wrsrBody (sr : Nat) (s : State) : Except Cause State :=
  if sr ≠ 1 then .error .index
  else if s.opa.extractLsb' 3 61 ≠ 0 then .error .badval
  else
    match RoundMode.ofCode (s.opa.extractLsb' 0 3) with
    | none => .error .badval
    | some m => .ok ((s.setRm m).answer 0)

/-- CLRST: mask bit 0 clears ERR and ECAUSE, mask bit 1 clears OVS; C is never changed (45_system.md R113). -/
def clrstBody (m : BitVec 2) (s : State) : Except Cause State :=
  let s1 := if m.getLsbD 0 then s.clearFault else s
  let s2 := if m.getLsbD 1 then s1.clearOvs else s1
  .ok (s2.answer 0)

/-- `NOP` (45_system.md R110). -/
def execNop (s : State) : Host.Outcome State Fault Refusal :=
  s.settle (nopBody s)

/-- `RDSR` (45_system.md R111). -/
def execRdsr (sr : Nat) (s : State) : Host.Outcome State Fault Refusal :=
  s.settle (rdsrBody sr s)

/-- `WRSR` (45_system.md R112). -/
def execWrsr (sr : Nat) (s : State) : Host.Outcome State Fault Refusal :=
  s.settle (wrsrBody sr s)

/-- `CLRST` (45_system.md R113). -/
def execClrst (m : BitVec 2) (s : State) : Host.Outcome State Fault Refusal :=
  s.settle (clrstBody m s)

end Sys2Proof.Machine
end

