-- ==== Sys2Proof/Machine/Dispatch.lean ====
section
/-! DEFINITION. The meaning of every instruction, one arm per constructor. -/

namespace Sys2Proof.Machine

/-- What the block does with a decoded command whose operand stands in `s.opa`. -/
def exec (i : Instr) (s : State) : Host.Outcome State Fault Refusal :=
  match i with
  | .setw128 rd => Sys2Proof.Machine.execSetw128 rd s
  | .setw192 rd => Sys2Proof.Machine.execSetw192 rd s
  | .setw256 rd => Sys2Proof.Machine.execSetw256 rd s
  | .insw rd wi => Sys2Proof.Machine.execInsw rd wi s
  | .rdw rs1 wi => Sys2Proof.Machine.execRdw rs1 wi s
  | .widen128 rd rs1 => Sys2Proof.Machine.execWiden128 rd rs1 s
  | .widen192 rd rs1 => Sys2Proof.Machine.execWiden192 rd rs1 s
  | .widen256 rd rs1 => Sys2Proof.Machine.execWiden256 rd rs1 s
  | .narrow128 rd rs1 => Sys2Proof.Machine.execNarrow128 rd rs1 s
  | .narrow192 rd rs1 => Sys2Proof.Machine.execNarrow192 rd rs1 s
  | .narrow256 rd rs1 => Sys2Proof.Machine.execNarrow256 rd rs1 s
  | .add128 rd rs1 rs2 => Sys2Proof.Machine.execAdd128 rd rs1 rs2 s
  | .add192 rd rs1 rs2 => Sys2Proof.Machine.execAdd192 rd rs1 rs2 s
  | .add256 rd rs1 rs2 => Sys2Proof.Machine.execAdd256 rd rs1 rs2 s
  | .mul128 rd rs1 => Sys2Proof.Machine.execMul128 rd rs1 s
  | .mul192 rd rs1 => Sys2Proof.Machine.execMul192 rd rs1 s
  | .mul256 rd rs1 => Sys2Proof.Machine.execMul256 rd rs1 s
  | .divc128 rd rs1 c => Sys2Proof.Machine.execDivc128 rd rs1 c s
  | .divc192 rd rs1 c => Sys2Proof.Machine.execDivc192 rd rs1 c s
  | .divc256 rd rs1 c => Sys2Proof.Machine.execDivc256 rd rs1 c s
  | .shl128 rd rs1 => Sys2Proof.Machine.execShl128 rd rs1 s
  | .shl192 rd rs1 => Sys2Proof.Machine.execShl192 rd rs1 s
  | .shl256 rd rs1 => Sys2Proof.Machine.execShl256 rd rs1 s
  | .shli128 rd rs1 n => Sys2Proof.Machine.execShli128 rd rs1 n s
  | .shli192 rd rs1 n => Sys2Proof.Machine.execShli192 rd rs1 n s
  | .shli256 rd rs1 n => Sys2Proof.Machine.execShli256 rd rs1 n s
  | .clz128 rs1 => Sys2Proof.Machine.execClz128 rs1 s
  | .clz192 rs1 => Sys2Proof.Machine.execClz192 rs1 s
  | .clz256 rs1 => Sys2Proof.Machine.execClz256 rs1 s
  | .clzt128 rs1 => Sys2Proof.Machine.execClzt128 rs1 s
  | .clzt192 rs1 => Sys2Proof.Machine.execClzt192 rs1 s
  | .clzt256 rs1 => Sys2Proof.Machine.execClzt256 rs1 s
  | .rnd rd rs1 tf neg => Sys2Proof.Machine.execRnd rd rs1 tf neg s
  | .nop => Sys2Proof.Machine.execNop s
  | .rdsr sr => Sys2Proof.Machine.execRdsr sr s
  | .wrsr sr => Sys2Proof.Machine.execWrsr sr s
  | .clrst m => Sys2Proof.Machine.execClrst m s

end Sys2Proof.Machine
end

