-- ==== Sys2Proof/Machine/Step.lean ====
section
/-! DEFINITION. One step of the block: accept the host's next command, decode it, run it (20_memory.md R33). -/

namespace Sys2Proof.Machine

/-- `step` of 20_memory.md R33, with the host's next command taken from the state. A word that matches no row faults
with ILLEGAL (30_encoding.md R52). With no command offered the state does not change (20_memory.md R32;
notes/assumptions/2.md). -/
def step (s : State) : Host.Outcome State Fault Refusal :=
  match s.cmds with
  | [] => .next s
  | c :: rest =>
    match decode c.insn with
    | .ok i => exec i (s.accept c rest)
    | .error _ => (s.accept c rest).settle (.error .illegal)

/-- `s` with the command word `w` where the next step takes its command (notes/assumptions/13.md). -/
def State.withFetchWord (s : State) (nbits w : Nat) : State :=
  s.placeCommand (BitVec.ofNat 32 (w % 2 ^ nbits))

end Sys2Proof.Machine
end

