-- ==== Sys2Proof/Safety.lean ====
section
/-! DEFINITION. The terms statements about MWAU-d128 use: what the spec says the registers always hold, what a fault
leaves, what a command that completes leaves, what each command reads and writes, and the typed commands by width. -/

namespace Sys2Proof

/-! ### The ten typed commands by width (30_encoding.md R47) -/

/-- SETW.w. -/
def Instr.setwAt : Width → WReg → Instr
  | .w128 => .setw128
  | .w192 => .setw192
  | .w256 => .setw256

/-- WIDEN.w. -/
def Instr.widenAt : Width → WReg → WReg → Instr
  | .w128 => .widen128
  | .w192 => .widen192
  | .w256 => .widen256

/-- NARROW.w. -/
def Instr.narrowAt : Width → WReg → WReg → Instr
  | .w128 => .narrow128
  | .w192 => .narrow192
  | .w256 => .narrow256

/-- ADD.w. -/
def Instr.addAt : Width → WReg → WReg → WReg → Instr
  | .w128 => .add128
  | .w192 => .add192
  | .w256 => .add256

/-- MUL.w. -/
def Instr.mulAt : Width → WReg → WReg → Instr
  | .w128 => .mul128
  | .w192 => .mul192
  | .w256 => .mul256

/-- DIVC.w. -/
def Instr.divcAt : Width → WReg → WReg → Divisor → Instr
  | .w128 => .divc128
  | .w192 => .divc192
  | .w256 => .divc256

/-- SHL.w. -/
def Instr.shlAt : Width → WReg → WReg → Instr
  | .w128 => .shl128
  | .w192 => .shl192
  | .w256 => .shl256

/-- SHLI.w. -/
def Instr.shliAt : Width → WReg → WReg → Nat → Instr
  | .w128 => .shli128
  | .w192 => .shli192
  | .w256 => .shli256

/-- CLZ.w. -/
def Instr.clzAt : Width → WReg → Instr
  | .w128 => .clz128
  | .w192 => .clz192
  | .w256 => .clz256

/-- CLZT.w. -/
def Instr.clztAt : Width → WReg → Instr
  | .w128 => .clzt128
  | .w192 => .clzt192
  | .w256 => .clzt256

/-! ### What each command reads and writes -/

/-- The wide register a command writes when it completes (10_state.md R10). -/
def Instr.dest : Instr → Option WReg
  | .setw128 rd => some rd
  | .setw192 rd => some rd
  | .setw256 rd => some rd
  | .insw rd _ => some rd
  | .rdw _ _ => none
  | .widen128 rd _ => some rd
  | .widen192 rd _ => some rd
  | .widen256 rd _ => some rd
  | .narrow128 rd _ => some rd
  | .narrow192 rd _ => some rd
  | .narrow256 rd _ => some rd
  | .add128 rd _ _ => some rd
  | .add192 rd _ _ => some rd
  | .add256 rd _ _ => some rd
  | .mul128 rd _ => some rd
  | .mul192 rd _ => some rd
  | .mul256 rd _ => some rd
  | .divc128 rd _ _ => some rd
  | .divc192 rd _ _ => some rd
  | .divc256 rd _ _ => some rd
  | .shl128 rd _ => some rd
  | .shl192 rd _ => some rd
  | .shl256 rd _ => some rd
  | .shli128 rd _ _ => some rd
  | .shli192 rd _ _ => some rd
  | .shli256 rd _ _ => some rd
  | .clz128 _ => none
  | .clz192 _ => none
  | .clz256 _ => none
  | .clzt128 _ => none
  | .clzt192 _ => none
  | .clzt256 _ => none
  | .rnd rd _ _ _ => some rd
  | .nop => none
  | .rdsr _ => none
  | .wrsr _ => none
  | .clrst _ => none

/-- The wide registers a command reads (10_state.md R10; INSW reads its destination, 60_exceptions.md R121). -/
def Instr.sources : Instr → List WReg
  | .setw128 _ => []
  | .setw192 _ => []
  | .setw256 _ => []
  | .insw rd _ => [rd]
  | .rdw rs1 _ => [rs1]
  | .widen128 _ rs1 => [rs1]
  | .widen192 _ rs1 => [rs1]
  | .widen256 _ rs1 => [rs1]
  | .narrow128 _ rs1 => [rs1]
  | .narrow192 _ rs1 => [rs1]
  | .narrow256 _ rs1 => [rs1]
  | .add128 _ rs1 rs2 => [rs1, rs2]
  | .add192 _ rs1 rs2 => [rs1, rs2]
  | .add256 _ rs1 rs2 => [rs1, rs2]
  | .mul128 _ rs1 => [rs1]
  | .mul192 _ rs1 => [rs1]
  | .mul256 _ rs1 => [rs1]
  | .divc128 _ rs1 _ => [rs1]
  | .divc192 _ rs1 _ => [rs1]
  | .divc256 _ rs1 _ => [rs1]
  | .shl128 _ rs1 => [rs1]
  | .shl192 _ rs1 => [rs1]
  | .shl256 _ rs1 => [rs1]
  | .shli128 _ rs1 _ => [rs1]
  | .shli192 _ rs1 _ => [rs1]
  | .shli256 _ rs1 _ => [rs1]
  | .clz128 rs1 => [rs1]
  | .clz192 rs1 => [rs1]
  | .clz256 rs1 => [rs1]
  | .clzt128 rs1 => [rs1]
  | .clzt192 rs1 => [rs1]
  | .clzt256 rs1 => [rs1]
  | .rnd _ rs1 _ _ => [rs1]
  | .nop => []
  | .rdsr _ => []
  | .wrsr _ => []
  | .clrst _ => []

/-- ADD, MUL and NARROW, the commands that write C (10_state.md R15). -/
def Instr.writesCarry : Instr → Bool
  | .setw128 _ => false
  | .setw192 _ => false
  | .setw256 _ => false
  | .insw _ _ => false
  | .rdw _ _ => false
  | .widen128 _ _ => false
  | .widen192 _ _ => false
  | .widen256 _ _ => false
  | .narrow128 _ _ => true
  | .narrow192 _ _ => true
  | .narrow256 _ _ => true
  | .add128 _ _ _ => true
  | .add192 _ _ _ => true
  | .add256 _ _ _ => true
  | .mul128 _ _ => true
  | .mul192 _ _ => true
  | .mul256 _ _ => true
  | .divc128 _ _ _ => false
  | .divc192 _ _ _ => false
  | .divc256 _ _ _ => false
  | .shl128 _ _ => false
  | .shl192 _ _ => false
  | .shl256 _ _ => false
  | .shli128 _ _ _ => false
  | .shli192 _ _ _ => false
  | .shli256 _ _ _ => false
  | .clz128 _ => false
  | .clz192 _ => false
  | .clz256 _ => false
  | .clzt128 _ => false
  | .clzt192 _ => false
  | .clzt256 _ => false
  | .rnd _ _ _ _ => false
  | .nop => false
  | .rdsr _ => false
  | .wrsr _ => false
  | .clrst _ => false

/-- DIVC, the command that writes REM (10_state.md R17). -/
def Instr.isDivc : Instr → Bool
  | .setw128 _ => false
  | .setw192 _ => false
  | .setw256 _ => false
  | .insw _ _ => false
  | .rdw _ _ => false
  | .widen128 _ _ => false
  | .widen192 _ _ => false
  | .widen256 _ _ => false
  | .narrow128 _ _ => false
  | .narrow192 _ _ => false
  | .narrow256 _ _ => false
  | .add128 _ _ _ => false
  | .add192 _ _ _ => false
  | .add256 _ _ _ => false
  | .mul128 _ _ => false
  | .mul192 _ _ => false
  | .mul256 _ _ => false
  | .divc128 _ _ _ => true
  | .divc192 _ _ _ => true
  | .divc256 _ _ _ => true
  | .shl128 _ _ => false
  | .shl192 _ _ => false
  | .shl256 _ _ => false
  | .shli128 _ _ _ => false
  | .shli192 _ _ _ => false
  | .shli256 _ _ _ => false
  | .clz128 _ => false
  | .clz192 _ => false
  | .clz256 _ => false
  | .clzt128 _ => false
  | .clzt192 _ => false
  | .clzt256 _ => false
  | .rnd _ _ _ _ => false
  | .nop => false
  | .rdsr _ => false
  | .wrsr _ => false
  | .clrst _ => false

/-- RND, the command that writes RRES (10_state.md R18). -/
def Instr.isRnd : Instr → Bool
  | .setw128 _ => false
  | .setw192 _ => false
  | .setw256 _ => false
  | .insw _ _ => false
  | .rdw _ _ => false
  | .widen128 _ _ => false
  | .widen192 _ _ => false
  | .widen256 _ _ => false
  | .narrow128 _ _ => false
  | .narrow192 _ _ => false
  | .narrow256 _ _ => false
  | .add128 _ _ _ => false
  | .add192 _ _ _ => false
  | .add256 _ _ _ => false
  | .mul128 _ _ => false
  | .mul192 _ _ => false
  | .mul256 _ _ => false
  | .divc128 _ _ _ => false
  | .divc192 _ _ _ => false
  | .divc256 _ _ _ => false
  | .shl128 _ _ => false
  | .shl192 _ _ => false
  | .shl256 _ _ => false
  | .shli128 _ _ _ => false
  | .shli192 _ _ _ => false
  | .shli256 _ _ _ => false
  | .clz128 _ => false
  | .clz192 _ => false
  | .clz256 _ => false
  | .clzt128 _ => false
  | .clzt192 _ => false
  | .clzt256 _ => false
  | .rnd _ _ _ _ => true
  | .nop => false
  | .rdsr _ => false
  | .wrsr _ => false
  | .clrst _ => false

/-- RDW, RDSR, CLZ and CLZT, the commands that only read (20_memory.md R39). -/
def Instr.isRead : Instr → Bool
  | .setw128 _ => false
  | .setw192 _ => false
  | .setw256 _ => false
  | .insw _ _ => false
  | .rdw _ _ => true
  | .widen128 _ _ => false
  | .widen192 _ _ => false
  | .widen256 _ _ => false
  | .narrow128 _ _ => false
  | .narrow192 _ _ => false
  | .narrow256 _ _ => false
  | .add128 _ _ _ => false
  | .add192 _ _ _ => false
  | .add256 _ _ _ => false
  | .mul128 _ _ => false
  | .mul192 _ _ => false
  | .mul256 _ _ => false
  | .divc128 _ _ _ => false
  | .divc192 _ _ _ => false
  | .divc256 _ _ _ => false
  | .shl128 _ _ => false
  | .shl192 _ _ => false
  | .shl256 _ _ => false
  | .shli128 _ _ _ => false
  | .shli192 _ _ _ => false
  | .shli256 _ _ _ => false
  | .clz128 _ => true
  | .clz192 _ => true
  | .clz256 _ => true
  | .clzt128 _ => true
  | .clzt192 _ => true
  | .clzt256 _ => true
  | .rnd _ _ _ _ => false
  | .nop => false
  | .rdsr _ => true
  | .wrsr _ => false
  | .clrst _ => false

namespace Machine

/-! ### What the registers always hold -/

/-- STATUS.ECAUSE is 0 exactly when STATUS.ERR is 0 (10_state.md R15: "0 when ERR is 0"). -/
abbrev State.EcauseMatchesErr (s : State) : Prop := s.status.ecause = none ↔ s.status.err = false

/-- REM is below the largest divisor (42_divide.md R76: 0 ≤ REM < d). -/
abbrev State.RemBelowDivisor (s : State) : Prop := s.rem.toNat < 10000000000000000000

/-- RRES.EXP lies in [0, MAX_BEXP] when CLASS is FINITE or ZERO and above MAX_BEXP when CLASS is OVERFLOW; before the
first RND, RRES is 0 (10_state.md R18). -/
def RRes.InRange (r : RRes) (maxBexp : Nat) : Prop :=
  match r.cls with
  | .noResult => r.exp = 0 ∧ r.sign = false
  | .finite => 0 ≤ r.exp.toInt ∧ r.exp.toInt ≤ maxBexp
  | .zero => 0 ≤ r.exp.toInt ∧ r.exp.toInt ≤ maxBexp
  | .overflow => (maxBexp : Int) < r.exp.toInt

/-- A response on the port is well formed: `cause` is 0 when `fault` is 0, and on a fault `cause` is one of the codes
1 to 6 and `res` is 0 (20_memory.md R31, R34; 60_exceptions.md R120). -/
abbrev Response.WellFormed (r : Response) : Prop :=
  (r.fault = false → r.cause = 0) ∧ (r.fault = true → r.res = 0 ∧ 1 ≤ r.cause.toNat ∧ r.cause.toNat ≤ 6)

/-- The invariant of the block. -/
structure State.Good (s : State) : Prop where
  /-- ECAUSE and ERR agree. -/
  ecause : s.EcauseMatchesErr
  /-- REM is a remainder of a table divisor. -/
  rem : s.RemBelowDivisor
  /-- RRES is in the range of its class. -/
  rres : s.rres.InRange s.config.maxBexp.val
  /-- The response on the port, if any, is well formed. -/
  rsp : ∀ r, s.rsp = some r → r.WellFormed

/-! ### What a command leaves -/

/-- Wide register `r` holds the integer `v` with the tag of width `w`. -/
def State.Holds (t : State) (r : WReg) (w : Width) (v : Nat) : Prop :=
  ∃ x, t.wide r = some x ∧ x.width = w ∧ x.toNat = v

/-- Every wide register but `rd` is unchanged. -/
def SameRegsBut (rd : WReg) (s t : State) : Prop := ∀ r, r ≠ rd → t.wide r = s.wide r

/-- The commands still to come, the operand of this command and the parameter MAX_BEXP are unchanged. -/
def SamePort (s t : State) : Prop := t.config = s.config ∧ t.cmds = s.cmds ∧ t.opa = s.opa

/-- `t` is `s` with `rd` written, response (0, 0, 0), and nothing else changed. -/
structure WroteReg (rd : WReg) (w : Width) (v : Nat) (s t : State) : Prop where
  /-- The destination. -/
  dest : t.Holds rd w v
  /-- The other wide registers. -/
  regs : SameRegsBut rd s t
  /-- STATUS. -/
  status : t.status = s.status
  /-- CTRL. -/
  rm : t.rm = s.rm
  /-- REM. -/
  rem : t.rem = s.rem
  /-- RRES. -/
  rres : t.rres = s.rres
  /-- The port but its response. -/
  port : SamePort s t
  /-- The response. -/
  rsp : t.rsp = some ⟨false, 0, 0⟩

/-- `t` is `s` with `rd` and the flag C written, OVS set when C is, response (0, 0, 0), and nothing else changed. -/
structure WroteRegAndCarry (rd : WReg) (w : Width) (v : Nat) (lost : Prop) (s t : State) : Prop where
  /-- The destination. -/
  dest : t.Holds rd w v
  /-- The other wide registers. -/
  regs : SameRegsBut rd s t
  /-- C says whether the exact result was not representable. -/
  carry : t.status.c = true ↔ lost
  /-- OVS is set when C is, and stays set. -/
  ovs : t.status.ovs = true ↔ s.status.ovs = true ∨ lost
  /-- ERR. -/
  err : t.status.err = s.status.err
  /-- ECAUSE. -/
  ecause : t.status.ecause = s.status.ecause
  /-- CTRL. -/
  rm : t.rm = s.rm
  /-- REM. -/
  rem : t.rem = s.rem
  /-- RRES. -/
  rres : t.rres = s.rres
  /-- The port but its response. -/
  port : SamePort s t
  /-- The response. -/
  rsp : t.rsp = some ⟨false, 0, 0⟩

/-- `i` completes in `s` with the response (0, 0, res) and changes nothing else. -/
def OnlyAnswers (i : Instr) (s : State) (res : Word) : Prop :=
  exec i s = .next { s with rsp := some ⟨false, 0, res⟩ }

/-- `t` is `s` after a fault with cause `c`: no wide register, no C, no OVS, no CTRL, no REM, no RRES is written;
ECAUSE captures the first cause, ERR is set, the response is (1, c, 0) (60_exceptions.md R124). -/
structure Squashed (c : Cause) (s t : State) : Prop where
  /-- The wide registers and their tags. -/
  regs : ∀ r, t.wide r = s.wide r
  /-- C. -/
  carry : t.status.c = s.status.c
  /-- OVS. -/
  ovs : t.status.ovs = s.status.ovs
  /-- ECAUSE takes the cause of the first fault since ERR was last 0. -/
  ecause : t.status.ecause = if s.status.err = true then s.status.ecause else some c
  /-- ERR. -/
  err : t.status.err = true
  /-- CTRL. -/
  rm : t.rm = s.rm
  /-- REM. -/
  rem : t.rem = s.rem
  /-- RRES. -/
  rres : t.rres = s.rres
  /-- The port but its response. -/
  port : SamePort s t
  /-- The response. -/
  rsp : t.rsp = some ⟨true, c.code, 0⟩

/-- `i` faults in `s` with cause `c`. -/
def Faults (i : Instr) (s : State) (c : Cause) : Prop := ∃ t, exec i s = .next t ∧ Squashed c s t

end Machine

end Sys2Proof
end

