-- ==== Sys2Proof/Certificates/Slice0/Obligations.lean ====
section
/-! DEFINITION. The statements about MWAU-d128 for the provers, and the terms they need beside Safety.lean. -/

namespace Sys2Proof.Claims

open Sys2Proof.Machine

/-! ### Terms -/

/-- The command word with these fields and `Z` = 0 (30_encoding.md R46). -/
def word (op : BitVec 8) (ws : BitVec 2) (rd rs1 rs2 : BitVec 3) (imm : BitVec 10) : CmdWord :=
  Fields.toWord ⟨op, ws, rd, rs1, rs2, 0, imm⟩

/-- A wide-register number in its 3-bit field. -/
def reg (r : WReg) : BitVec 3 := BitVec.ofNat 3 r.val

/-! ### The numbers of the spec's tables, written out -/

/-- The cause codes 1 to 6 (60_exceptions.md R120). -/
def causeNumber : Cause → Nat
  | .illegal => 1
  | .empty => 2
  | .width => 3
  | .index => 4
  | .badval => 5
  | .truncbug => 6

/-- What STATUS.ECAUSE holds: 0 for no cause (10_state.md R15; 60_exceptions.md R120). -/
def ecauseNumber : Option Cause → Nat
  | none => 0
  | some c => causeNumber c

/-- The rounding modes 0 to 4 of CTRL.RM (10_state.md R16; 44_round.md R94). -/
def modeNumber : RoundMode → Nat
  | .halfEven => 0
  | .halfAway => 1
  | .towardZero => 2
  | .towardPos => 3
  | .towardNeg => 4

/-- The class codes 0 to 3 of RRES.CLASS (10_state.md R18). -/
def classNumber : ResClass → Nat
  | .noResult => 0
  | .finite => 1
  | .zero => 2
  | .overflow => 3

/-- The tag codes 0 to 3 (10_state.md R12). -/
def tagNumber : Option Wide → Nat
  | none => 0
  | some (.u128 _) => 1
  | some (.u192 _) => 2
  | some (.u256 _) => 3

/-- The bits of the field `tf` (30_encoding.md R48; 44_round.md R93). -/
def tfBits : TruncField → BitVec 2
  | .exact => 0b00#2
  | .above => 0b01#2
  | .reserved => 0b10#2
  | .below => 0b11#2

/-- `v` is RRES `r` in its layout: EXP in bits 31:0, SIGN in bit 32, CLASS in bits 34:33, zeros above (10_state.md R18;
44_round.md R101). -/
def IsResultWord (v : Word) (r : RRes) : Prop :=
  v.extractLsb' 0 32 = r.exp ∧ v.getLsbD 32 = r.sign ∧ (v.extractLsb' 33 2).toNat = classNumber r.cls ∧
    v.extractLsb' 35 29 = 0

/-! ### The conditions of the six causes (60_exceptions.md R121) -/

/-- Register `r` is not EMPTY and its width is not `w`. -/
def OtherWidth (s : State) (r : WReg) (w : Width) : Prop := ∃ x, s.wide r = some x ∧ x.width ≠ w

/-- WIDTH: a source is not EMPTY and has a width the command does not accept. -/
def RaisesWidth (s : State) : Instr → Prop
  | .setw128 _ => False
  | .setw192 _ => False
  | .setw256 _ => False
  | .insw _ _ => False
  | .rdw _ _ => False
  | .widen128 _ rs1 => ∃ x, s.wide rs1 = some x ∧ Width.bits .w128 < x.width.bits
  | .widen192 _ rs1 => ∃ x, s.wide rs1 = some x ∧ Width.bits .w192 < x.width.bits
  | .widen256 _ rs1 => ∃ x, s.wide rs1 = some x ∧ Width.bits .w256 < x.width.bits
  | .narrow128 _ rs1 => ∃ x, s.wide rs1 = some x ∧ x.width.bits < Width.bits .w128
  | .narrow192 _ rs1 => ∃ x, s.wide rs1 = some x ∧ x.width.bits < Width.bits .w192
  | .narrow256 _ rs1 => ∃ x, s.wide rs1 = some x ∧ x.width.bits < Width.bits .w256
  | .add128 _ rs1 rs2 => OtherWidth s rs1 .w128 ∨ OtherWidth s rs2 .w128
  | .add192 _ rs1 rs2 => OtherWidth s rs1 .w192 ∨ OtherWidth s rs2 .w192
  | .add256 _ rs1 rs2 => OtherWidth s rs1 .w256 ∨ OtherWidth s rs2 .w256
  | .mul128 _ rs1 => OtherWidth s rs1 .w128
  | .mul192 _ rs1 => OtherWidth s rs1 .w192
  | .mul256 _ rs1 => OtherWidth s rs1 .w256
  | .divc128 _ rs1 _ => OtherWidth s rs1 .w128
  | .divc192 _ rs1 _ => OtherWidth s rs1 .w192
  | .divc256 _ rs1 _ => OtherWidth s rs1 .w256
  | .shl128 _ rs1 => OtherWidth s rs1 .w128
  | .shl192 _ rs1 => OtherWidth s rs1 .w192
  | .shl256 _ rs1 => OtherWidth s rs1 .w256
  | .shli128 _ rs1 _ => OtherWidth s rs1 .w128
  | .shli192 _ rs1 _ => OtherWidth s rs1 .w192
  | .shli256 _ rs1 _ => OtherWidth s rs1 .w256
  | .clz128 rs1 => OtherWidth s rs1 .w128
  | .clz192 rs1 => OtherWidth s rs1 .w192
  | .clz256 rs1 => OtherWidth s rs1 .w256
  | .clzt128 rs1 => OtherWidth s rs1 .w128
  | .clzt192 rs1 => OtherWidth s rs1 .w192
  | .clzt256 rs1 => OtherWidth s rs1 .w256
  | .rnd _ rs1 _ _ => OtherWidth s rs1 .w128
  | .nop => False
  | .rdsr _ => False
  | .wrsr _ => False
  | .clrst _ => False

/-- INDEX: a word index at or above the word count of the register, a special-register number at or above 5 for RDSR or
other than 1 for WRSR. -/
def RaisesIndex (s : State) (i : Instr) : Prop :=
  (∃ rd j x, i = .insw rd j ∧ s.wide rd = some x ∧ x.width.words ≤ j) ∨
  (∃ rs1 j x, i = .rdw rs1 j ∧ s.wide rs1 = some x ∧ x.width.words ≤ j) ∨
  (∃ sr, i = .rdsr sr ∧ 5 ≤ sr) ∨ ∃ sr, i = .wrsr sr ∧ sr ≠ 1

/-- BADVAL: RND with `tf` = 10, with `opa` not the sign extension of its low 32 bits, or with a zero significand and
`tf` = 01; WRSR CTRL with `opa[63:3]` not 0 or `opa[2:0]` at or above 5. -/
def RaisesBadval (s : State) (i : Instr) : Prop :=
  (∃ rd rs1 tf neg, i = .rnd rd rs1 tf neg ∧
    (tf = .reserved ∨ s.opa ≠ (s.opa.extractLsb' 0 32).signExtend 64 ∨
      (tf = .above ∧ ∃ x, s.wide rs1 = some x ∧ x.toNat = 0))) ∨
  (i = .wrsr 1 ∧ (s.opa.extractLsb' 3 61 ≠ 0 ∨ 5 ≤ (s.opa.extractLsb' 0 3).toNat))

/-- TRUNCBUG: RND with s < 10^34, e ≥ 0, a non-zero flag, and either e ≤ MAX_BEXP or s = 0. -/
def RaisesTruncbug (s : State) (i : Instr) : Prop :=
  ∃ rd rs1 tf neg x, i = .rnd rd rs1 tf neg ∧ s.wide rs1 = some x ∧ x.toNat < 10 ^ 34 ∧
    0 ≤ (s.opa.extractLsb' 0 32).toInt ∧ tf ≠ .exact ∧
    ((s.opa.extractLsb' 0 32).toInt ≤ s.config.maxBexp.val ∨ x.toNat = 0)

/-- The condition of each cause for the command word `insn` run in `s`, whose `opa` is the command's. ILLEGAL depends on
the word alone; the other conditions concern the command it decodes to. -/
def Raises (s : State) (insn : CmdWord) : Cause → Prop
  | .illegal => ∀ row ∈ opcodeTable, row.selects insn = false
  | .empty => ∃ i, decode insn = .ok i ∧ ∃ r ∈ i.sources, s.wide r = none
  | .width => ∃ i, decode insn = .ok i ∧ RaisesWidth s i
  | .index => ∃ i, decode insn = .ok i ∧ RaisesIndex s i
  | .badval => ∃ i, decode insn = .ok i ∧ RaisesBadval s i
  | .truncbug => ∃ i, decode insn = .ok i ∧ RaisesTruncbug s i

/-! ### Sequences of commands -/

/-- The response to the command number `j` (from 0) of a run from `s` is `r`. -/
def AnsweredAt (s : State) (j : Nat) (r : Response) : Prop :=
  ∃ u : State, Sys2Proof.core.run (j + 1) s = .next u ∧ u.rsp = some r

/-- INSW of word j of `v` into `rd`, for each j of a list in turn (40_move.md R65). -/
def insertWords (rd : WReg) (v : Nat) : List Nat → State → Host.Outcome State Fault Refusal
  | [], s => .next s
  | j :: js, s =>
    match exec (.insw rd j) { s with opa := wordOf v j } with
    | .next t => insertWords rd v js t
    | o => o

/-- The document's left normalization: shift by the count of the top word until that count is 0, for at most `fuel`
shifts (43_shift_clz.md R84 (d)). -/
def normalizeLoop (w : Width) : Nat → Nat → Nat
  | 0, v => v
  | fuel + 1, v =>
    let n := leadingZeros 64 (wordOf v (w.words - 1)).toNat
    if n = 0 then v else normalizeLoop w fuel (shiftLeft w v n)

/-! ### A digit-at-a-time loop (44_round.md R107)

DESIGN CHOICE, log entry 17: how the loop tracks remainders and the truncation flag is the model's. The document does not
say it (91_not_in_source.md N8), and R107 starts a three-way state at t and leaves arms out. This loop carries the last digit
dropped and whether anything non-zero was dropped before it, and looks at the flag once, at the end. No step uses it. -/

/-- What the loop carries: the quotient so far, the last digit dropped, whether a lower dropped digit was not 0 (DESIGN
CHOICE, log entry 17). -/
structure LoopState where
  /-- The quotient so far. -/
  q : Nat
  /-- The last digit dropped. -/
  digit : Nat
  /-- Whether anything non-zero was dropped before it. -/
  sticky : Bool

/-- One division by 10. -/
def LoopState.drop (u : LoopState) : LoopState := ⟨u.q / 10, u.q % 10, u.sticky || u.digit != 0⟩

/-- `k` divisions by 10. -/
def LoopState.dropMany : Nat → LoopState → LoopState
  | 0, u => u
  | k + 1, u => dropMany k u.drop

/-- The position the loop ends with: decided by the last digit dropped, by whether anything non-zero was dropped before it,
and, where these leave it open, by the truncation flag. R107 names the first two as what decides the comparison with half,
but starts its loop at the flag and leaves arms out: that the flag is applied at the end is a DESIGN CHOICE, log entry 17. -/
def LoopState.position (u : LoopState) (t : TruncFlag) : Nat × Position :=
  if u.digit = 0 ∧ u.sticky = false then
    match t with
    | .above => (u.q - 1, .aboveHalf)
    | .exact => (u.q, .exact)
    | .below => (u.q, .belowHalf)
  else if u.digit < 5 then (u.q, .belowHalf)
  else if u.digit = 5 ∧ u.sticky = false then
    match t with
    | .exact => (u.q, .half)
    | .below => (u.q, .aboveHalf)
    | .above => (u.q, .belowHalf)
  else (u.q, .aboveHalf)

/-! ### What correct rounding means (44_round.md R93, R106) -/

/-- The contract of the truncation flag: what the host asserts about the exact magnitude T of a significand `s`, in units
of 10^e (44_round.md R93). -/
def Contract (t : TruncFlag) (s : Nat) (T : ℚ) : Prop :=
  match t with
  | .exact => T = s
  | .below => (s : ℚ) < T ∧ T < s + 1
  | .above => (s : ℚ) - 1 < T ∧ T < s

/-- `n` is the magnitude `x` rounded to an integer in mode `m`, for a value whose sign is negative when `neg`
(44_round.md R94). -/
def RoundsTo (m : RoundMode) (neg : Bool) (x : ℚ) (n : Nat) : Prop :=
  match m with
  | .halfEven => |x - n| ≤ 1 / 2 ∧ (|x - n| = 1 / 2 → n % 2 = 0)
  | .halfAway => |x - n| ≤ 1 / 2 ∧ (|x - n| = 1 / 2 → x < n)
  | .towardZero => (n : ℚ) ≤ x ∧ x < n + 1
  | .towardPos => if neg then (n : ℚ) ≤ x ∧ x < n + 1 else (n : ℚ) - 1 < x ∧ x ≤ n
  | .towardNeg => if neg then (n : ℚ) - 1 < x ∧ x ≤ n else (n : ℚ) ≤ x ∧ x < n + 1

/-- With `q` and `r` the quotient and remainder of a significand by 10^k and `half` = 5·10^(k−1), the position of the exact
value is `p` inside [q', q' + 1): the arms of the table of 44_round.md R98. -/
def PositionIs (q r half : Nat) (t : TruncFlag) (q' : Nat) (p : Position) : Prop :=
  (r = 0 ∧ t = .above ∧ q = q' + 1 ∧ p = .aboveHalf) ∨
  (r = 0 ∧ t = .exact ∧ q = q' ∧ p = .exact) ∨
  (r = 0 ∧ t = .below ∧ q = q' ∧ p = .belowHalf) ∨
  (r ≠ 0 ∧ r < half ∧ q = q' ∧ p = .belowHalf) ∨
  (half < r ∧ q = q' ∧ p = .aboveHalf) ∨
  (r ≠ 0 ∧ r = half ∧ t = .exact ∧ q = q' ∧ p = .half) ∨
  (r ≠ 0 ∧ r = half ∧ t = .below ∧ q = q' ∧ p = .aboveHalf) ∨
  (r ≠ 0 ∧ r = half ∧ t = .above ∧ q = q' ∧ p = .belowHalf)

/-- The kept significand `q` is raised by one unit: the table of 44_round.md R99. -/
def RaisedByOne (m : RoundMode) (p : Position) (q : Nat) (neg : Bool) : Prop :=
  match m with
  | .halfEven => p = .aboveHalf ∨ (p = .half ∧ q % 2 = 1)
  | .halfAway => p = .aboveHalf ∨ p = .half
  | .towardZero => False
  | .towardPos => p ≠ .exact ∧ neg = false
  | .towardNeg => p ≠ .exact ∧ neg = true

/-- `q2` and `e2` are the final significand and exponent of RND with `k` digits dropped: nothing is dropped, or position,
increment and the renormalization at 10^34 (44_round.md R97 to R100). -/
def FinalPair (m : RoundMode) (neg : Bool) (t : TruncFlag) (s k : Nat) (e : Int) (q2 : Nat) (e2 : Int) : Prop :=
  (k = 0 ∧ q2 = s ∧ e2 = e) ∨
  (k ≠ 0 ∧ ∃ (q : Nat) (p : Position) (inc : Nat),
    PositionIs (s / 10 ^ k) (s % 10 ^ k) (5 * 10 ^ (k - 1)) t q p ∧
    ((inc = 1 ∧ RaisedByOne m p q neg) ∨ (inc = 0 ∧ ¬ RaisedByOne m p q neg)) ∧
    ((q + inc = 10 ^ 34 ∧ q2 = 10 ^ 33 ∧ e2 = e + k + 1) ∨ (q + inc ≠ 10 ^ 34 ∧ q2 = q + inc ∧ e2 = e + k)))

/-- `r` is the classification of a final significand `q2` and exponent `e2` (44_round.md R90, R102, R103). -/
def Classified (maxBexp : Nat) (neg : Bool) (q2 : Nat) (e2 : Int) (r : RRes) : Prop :=
  r.sign = neg ∧
  (q2 = 0 → r.cls = .zero ∧ r.exp.toInt = min e2 maxBexp) ∧
  (q2 ≠ 0 → (maxBexp : Int) < e2 → r.cls = .overflow ∧ r.exp.toInt = min e2 (2 ^ 31 - 1)) ∧
  (q2 ≠ 0 → e2 ≤ maxBexp → r.cls = .finite ∧ r.exp.toInt = e2)

/-- The value t of a `tf` field that is not reserved (44_round.md R93). -/
def HasFlag (tf : TruncField) (t : TruncFlag) : Prop :=
  (tf = .exact ∧ t = .exact) ∨ (tf = .below ∧ t = .below) ∨ (tf = .above ∧ t = .above)

end Sys2Proof.Claims

open Sys2Proof Sys2Proof.Machine Sys2Proof.Claims

/-! ### Reset and the invariant -/

/-- The reset state, register by register (10_state.md R22). -/
def Obligations.ResetLeavesTheResetValues : Prop :=
  (∀ r, State.reset.wide r = none) ∧
  State.reset.status.c = false ∧ State.reset.status.ovs = false ∧ State.reset.status.err = false ∧
  ecauseNumber State.reset.status.ecause = 0 ∧
  State.reset.rm = .halfEven ∧ modeNumber State.reset.rm = 0 ∧
  State.reset.rem = 0 ∧
  State.reset.rres.exp = 0 ∧ State.reset.rres.sign = false ∧ classNumber State.reset.rres.cls = 0 ∧
  State.reset.tagsWord = 0

/-- The invariant of Safety.lean holds at reset (10_state.md R15, R17, R18, R22). -/
def Obligations.GoodAtReset : Prop := State.reset.Good

/-- Every step keeps the invariant: ECAUSE is 0 exactly when ERR is 0, REM is below the largest divisor, RRES.EXP is in
the range of RRES.CLASS, and a response is well formed (10_state.md R15, R17, R18; 20_memory.md R31, R34). -/
def Obligations.EveryStepKeepsGood : Prop :=
  ∀ s t, s.Good → step s = .next t → t.Good

/-- No command makes a register EMPTY again, and a command writes no wide register but its destination (10_state.md R12;
00_scope.md R8). -/
def Obligations.TagsNeverReturnToEmpty : Prop :=
  ∀ i s t, exec i s = .next t →
    (∀ r x, s.wide r = some x → ∃ y, t.wide r = some y) ∧ ∀ r, i.dest ≠ some r → t.wide r = s.wide r

/-! ### Encoding -/

/-- Decoding the word of a well-formed command gives the command back, for every operand value an encoding admits
(30_encoding.md R46, R48, R50). -/
def Obligations.DecodeOfEncodeIsTheInstruction : Prop :=
  ∀ i : Instr, i.WellFormed → decode (encode i) = .ok i

/-- A word that decodes is the encoding of what it decodes to: no bit is ignored and no command has two words
(30_encoding.md R49, R51). -/
def Obligations.EncodeOfDecodeIsTheWord : Prop :=
  ∀ (w : CmdWord) (i : Instr), decode w = .ok i → i.WellFormed ∧ encode i = w

/-- The decoder agrees with the opcode table: 37 rows, at most one selects a word, and the decoder answers a command of
exactly the row that does (30_encoding.md R50). -/
def Obligations.DecoderAgreesWithOpcodeTable : Prop :=
  opcodeTable.length = 37 ∧
  (∀ w : CmdWord, ∀ a ∈ opcodeTable, ∀ b ∈ opcodeTable, a.selects w = true → b.selects w = true → a = b) ∧
  (∀ w i, decode w = .ok i → ∃ row ∈ opcodeTable, row.mnemonic = i.mnemonic ∧ row.selects w = true) ∧
  ∀ w : CmdWord, ∀ row ∈ opcodeTable, row.selects w = true → ∃ i, decode w = .ok i ∧ i.mnemonic = row.mnemonic

/-- The five worked encodings of the spec, which it marks as derived by itself: "Worked encodings [derived: from rule R46
and rule R50]" (30_encoding.md). -/
def Obligations.WorkedEncodingsDecode : Prop :=
  (encode (.add128 3 1 2) = 0x10594000#32 ∧ decode 0x10594000#32 = .ok (.add128 3 1 2)) ∧
  (encode (.shli256 0 7 300) = 0x19C7012C#32 ∧ decode 0x19C7012C#32 = .ok (.shli256 0 7 300)) ∧
  (encode (.rnd 1 0 .below true) = 0x20480007#32 ∧ decode 0x20480007#32 = .ok (.rnd 1 0 .below true) ∧
    (BitVec.ofInt 32 6200).signExtend 64 = 0x0000000000001838#64) ∧
  (encode (.rdsr 2) = 0x31000002#32 ∧ decode 0x31000002#32 = .ok (.rdsr 2)) ∧
  (encode (.divc192 2 2 .d19n) = 0x12920002#32 ∧ decode 0x12920002#32 = .ok (.divc192 2 2 .d19n))

/-! ### Steps -/

/-- A step runs the command the offered word decodes to, with the command taken off the port and its operand in `opa`
(20_memory.md R33). -/
def Obligations.StepRunsTheDecodedCommand : Prop :=
  ∀ (s : State) (c : Command) (rest : List Command) (i : Instr), s.cmds = c :: rest → decode c.insn = .ok i →
    step s = exec i { s with cmds := rest, opa := c.opa }

/-- A word that no row of the opcode table selects faults with ILLEGAL and changes nothing but ERR and ECAUSE
(30_encoding.md R52). -/
def Obligations.UnmatchedWordFaultsWithIllegal : Prop :=
  ∀ (s : State) (c : Command) (rest : List Command), s.cmds = c :: rest →
    (∀ row ∈ opcodeTable, row.selects c.insn = false) →
    ∃ t, step s = .next t ∧ Squashed .illegal { s with cmds := rest, opa := c.opa } t

/-- One command is accepted at a time and gets one response, MAX_BEXP never changes, and nothing stops the block
(20_memory.md R32, R33). -/
def Obligations.EveryAcceptedCommandIsAnswered : Prop :=
  ∀ (s : State) (c : Command) (rest : List Command), s.cmds = c :: rest →
    ∃ t r, step s = .next t ∧ t.cmds = rest ∧ t.opa = c.opa ∧ t.config = s.config ∧ t.rsp = some r

/-- With no command offered a step changes nothing: the model's reading of 20_memory.md R32, log entry 2. -/
def Obligations.IdleStepChangesNothing : Prop :=
  ∀ s : State, s.cmds = [] → step s = .next s

/-- A run takes the offered commands in their order, one a step, whatever they are (20_memory.md R32, R40; 60_exceptions.md
R123). Past the last of them it goes on by idle steps: that is the model's choice, log entry 2, and the list of offered
commands is the model's, log entry 1. -/
def Obligations.EveryRunContinues : Prop :=
  ∀ (n : Nat) (s : State), ∃ t : State, Sys2Proof.core.run n s = .next t ∧ t.cmds = s.cmds.drop n

/-! ### Faults -/

/-- Fault entry: a command that faults is squashed, and its response is (1, the cause's code, 0) (60_exceptions.md
R124). -/
def Obligations.FaultingCommandIsSquashed : Prop :=
  ∀ (s t : State) (c : Command) (rest : List Command) (r : Response), s.cmds = c :: rest → step s = .next t →
    t.rsp = some r → r.fault = true →
    ∃ cause, r.cause.toNat = causeNumber cause ∧ r.res = 0 ∧ Squashed cause { s with cmds := rest, opa := c.opa } t

/-- Each cause is reported exactly when its condition holds and no condition of a lower code does; a command completes
exactly when no condition holds (60_exceptions.md R121, R122). -/
def Obligations.EachCauseIsReportedExactlyWhenItHolds : Prop :=
  ∀ (s t : State) (c : Command) (rest : List Command), s.cmds = c :: rest → step s = .next t →
    (∀ cause : Cause, (∃ r, t.rsp = some r ∧ r.fault = true ∧ r.cause.toNat = causeNumber cause) ↔
      Raises { s with cmds := rest, opa := c.opa } c.insn cause ∧
      ∀ lower : Cause, causeNumber lower < causeNumber cause →
        ¬ Raises { s with cmds := rest, opa := c.opa } c.insn lower) ∧
    ((∃ r, t.rsp = some r ∧ r.fault = false) ↔
      ∀ cause, ¬ Raises { s with cmds := rest, opa := c.opa } c.insn cause)

/-- ERR and ECAUSE are information for the host: no command but RDSR STATUS answers or does anything else because of them
(60_exceptions.md R123). -/
def Obligations.ErrAndEcauseInfluenceNothing : Prop :=
  ∀ (i : Instr) (s t t' : State) (e : Bool) (c : Option Cause), i ≠ .rdsr 0 → exec i s = .next t →
    exec i { s with status := { s.status with err := e, ecause := c } } = .next t' →
    t'.rsp = t.rsp ∧ (∀ r, t'.wide r = t.wide r) ∧ t'.status.c = t.status.c ∧ t'.status.ovs = t.status.ovs ∧
    t'.rm = t.rm ∧ t'.rem = t.rem ∧ t'.rres = t.rres

/-- While ERR is 1 it and ECAUSE stay, except that CLRST with mask bit 0 clears both (60_exceptions.md R126). -/
def Obligations.OnlyClrstClearsErr : Prop :=
  ∀ s t : State, step s = .next t → s.status.err = true →
    (t.status.err = true ∧ t.status.ecause = s.status.ecause) ∨
    ∃ c rest m, s.cmds = c :: rest ∧ decode c.insn = .ok (.clrst m) ∧ m.getLsbD 0 = true ∧
      t.status.err = false ∧ t.status.ecause = none

/-- At the end of a sequence of commands that begins with ERR = 0 and has no CLRST with mask bit 0, ERR is 1 exactly when
one of them faulted, and ECAUSE then is the cause of the first that did: what the spec infers itself, "STATUS.ERR = 0 means
that no command of the sequence faulted" (60_exceptions.md, marked derived; a CLRST is shut out by the model, log entry 14). -/
def Obligations.ErrAtTheEndTellsWhetherACommandFaulted : Prop :=
  ∀ (n : Nat) (s t : State), s.status.err = false → n ≤ s.cmds.length →
    (∀ c ∈ s.cmds.take n, ∀ m, decode c.insn = .ok (.clrst m) → m.getLsbD 0 = false) →
    Sys2Proof.core.run n s = .next t →
    (t.status.err = true ↔ ∃ j r, j < n ∧ AnsweredAt s j r ∧ r.fault = true) ∧
    ∀ j r, j < n → AnsweredAt s j r → r.fault = true →
      (∀ j' r', j' < j → AnsweredAt s j' r' → r'.fault = false) → ecauseNumber t.status.ecause = r.cause.toNat

/-! ### What each command may write -/

/-- C is written only by ADD, MUL and NARROW, OVS is set only with C and cleared only by CLRST with mask bit 1, CTRL is
written only by WRSR 1, REM only by DIVC, RRES only by RND (10_state.md R15 to R18). -/
def Obligations.SpecialRegistersHaveOneWriter : Prop :=
  ∀ i s t, exec i s = .next t →
    (i.writesCarry = false → t.status.c = s.status.c) ∧
    (t.status.ovs ≠ s.status.ovs → (t.status.ovs = true ∧ i.writesCarry = true ∧ t.status.c = true) ∨
      ∃ m, i = .clrst m ∧ m.getLsbD 1 = true ∧ t.status.ovs = false) ∧
    (i ≠ .wrsr 1 → t.rm = s.rm) ∧
    (i.isDivc = false → t.rem = s.rem) ∧
    (i.isRnd = false → t.rres = s.rres) ∧
    SamePort s t

/-- RDW, RDSR, CLZ and CLZT change no state when they complete, and reading again at once gives the same answer
(20_memory.md R39). -/
def Obligations.ReadsHaveNoSideEffects : Prop :=
  ∀ i s t r, i.isRead = true → exec i s = .next t → t.rsp = some r → r.fault = false →
    t = { s with rsp := some r } ∧ exec i t = .next t

/-- The result of a command other than RDSR is a function of the values and tags of the registers it reads, of `opa`, of
the command word, of MAX_BEXP, and, for RND only, of CTRL.RM (20_memory.md R40, 44_round.md R105). -/
def Obligations.ResultDependsOnlyOnNamedOperands : Prop :=
  ∀ (i : Instr) (s s' t t' : State), (∀ sr, i ≠ .rdsr sr) → (∀ r ∈ i.sources, s'.wide r = s.wide r) →
    s'.opa = s.opa → (i.isRnd = true → s'.rm = s.rm ∧ s'.config = s.config) →
    exec i s = .next t → exec i s' = .next t' →
    t'.rsp = t.rsp ∧
    ((∃ r, t.rsp = some r ∧ r.fault = false) →
      (∀ rd, i.dest = some rd → t'.wide rd = t.wide rd) ∧
      (i.writesCarry = true → t'.status.c = t.status.c) ∧
      (i.isDivc = true → t'.rem = t.rem) ∧ (i.isRnd = true → t'.rres = t.rres))

/-! ### Data movement -/

/-- SETW.w (setw128, setw192, setw256): encoding, effect, no fault (40_move.md R60). -/
def Obligations.SetwWritesTheOperand : Prop :=
  ∀ (w : Width) (rd : WReg) (s : State),
    decode (word 0x01 w.code (reg rd) 0 0 0) = .ok (.setwAt w rd) ∧
    ∃ t, exec (.setwAt w rd) s = .next t ∧ WroteReg rd w s.opa.toNat s t

/-- INSW: encoding, faults, and the effect: word `i` becomes `opa`, the other words and the tag stay (40_move.md R61). -/
def Obligations.InswReplacesOneWord : Prop :=
  ∀ (rd : WReg) (i : Nat) (s : State),
    (i < 4 → decode (word 0x02 0 (reg rd) 0 0 (BitVec.ofNat 10 i)) = .ok (.insw rd i)) ∧
    (s.wide rd = none → Faults (.insw rd i) s .empty) ∧
    ∀ x, s.wide rd = some x →
      (x.width.words ≤ i → Faults (.insw rd i) s .index) ∧
      (i < x.width.words → ∃ t v, exec (.insw rd i) s = .next t ∧ WroteReg rd x.width v s t ∧
        v + (wordOf x.toNat i).toNat * 2 ^ (64 * i) = x.toNat + s.opa.toNat * 2 ^ (64 * i) ∧
        ∀ j, wordOf v j = if j = i then s.opa else wordOf x.toNat j)

/-- RDW: encoding, faults, and the answer; no state changes (40_move.md R62). -/
def Obligations.RdwAnswersOneWord : Prop :=
  ∀ (rs1 : WReg) (i : Nat) (s : State),
    (i < 4 → decode (word 0x03 0 0 (reg rs1) 0 (BitVec.ofNat 10 i)) = .ok (.rdw rs1 i)) ∧
    (s.wide rs1 = none → Faults (.rdw rs1 i) s .empty) ∧
    ∀ x, s.wide rs1 = some x →
      (x.width.words ≤ i → Faults (.rdw rs1 i) s .index) ∧
      (i < x.width.words → ∃ v : Word, OnlyAnswers (.rdw rs1 i) s v ∧
        v.toNat = x.toNat / 2 ^ (64 * i) % 2 ^ 64)

/-- WIDEN.w (widen128, widen192, widen256): encoding, faults, and the effect: the same integer at width w
(40_move.md R63). -/
def Obligations.WidenKeepsTheInteger : Prop :=
  ∀ (w : Width) (rd rs1 : WReg) (s : State),
    decode (word 0x04 w.code (reg rd) (reg rs1) 0 0) = .ok (.widenAt w rd rs1) ∧
    (s.wide rs1 = none → Faults (.widenAt w rd rs1) s .empty) ∧
    ∀ x, s.wide rs1 = some x →
      (w.bits < x.width.bits → Faults (.widenAt w rd rs1) s .width) ∧
      (x.width.bits ≤ w.bits → ∃ t, exec (.widenAt w rd rs1) s = .next t ∧ WroteReg rd w x.toNat s t)

/-- NARROW.w (narrow128, narrow192, narrow256): encoding, faults, and the effect: the low w bits, C and OVS report whether
a discarded bit was 1 (40_move.md R64). -/
def Obligations.NarrowKeepsTheLowBits : Prop :=
  ∀ (w : Width) (rd rs1 : WReg) (s : State),
    decode (word 0x05 w.code (reg rd) (reg rs1) 0 0) = .ok (.narrowAt w rd rs1) ∧
    (s.wide rs1 = none → Faults (.narrowAt w rd rs1) s .empty) ∧
    ∀ x, s.wide rs1 = some x →
      (x.width.bits < w.bits → Faults (.narrowAt w rd rs1) s .width) ∧
      (w.bits ≤ x.width.bits → ∃ t, exec (.narrowAt w rd rs1) s = .next t ∧
        WroteRegAndCarry rd w (x.toNat % 2 ^ w.bits) (2 ^ w.bits ≤ x.toNat) s t)

/-- A w-bit value reaches a register by SETW of its word 0 and INSW of its other words in any order, and its words are read
back by RDW: what the spec infers itself, "A w-bit value v reaches register Wd by SETW ... followed by INSW" (40_move.md,
marked derived). -/
def Obligations.SetwThenInswBuildsTheValue : Prop :=
  ∀ (w : Width) (rd : WReg) (v : Nat) (js : List Nat) (s : State), v < 2 ^ w.bits →
    js.Perm (List.range' 1 (w.words - 1)) →
    ∃ t u, exec (.setwAt w rd) { s with opa := wordOf v 0 } = .next t ∧ insertWords rd v js t = .next u ∧
      u.Holds rd w v ∧ ∀ j, j < w.words → OnlyAnswers (.rdw rd j) u (wordOf v j)

/-! ### Adder and multiplier -/

/-- ADD.w (add128, add192, add256): encoding, faults, and the effect: the sum modulo 2^w, C and OVS report the carry
(41_addmul.md R70). -/
def Obligations.AddWritesSumAndCarry : Prop :=
  ∀ (w : Width) (rd rs1 rs2 : WReg) (s : State),
    decode (word 0x10 w.code (reg rd) (reg rs1) (reg rs2) 0) = .ok (.addAt w rd rs1 rs2) ∧
    (s.wide rs1 = none ∨ s.wide rs2 = none → Faults (.addAt w rd rs1 rs2) s .empty) ∧
    ∀ x y, s.wide rs1 = some x → s.wide rs2 = some y →
      (x.width ≠ w ∨ y.width ≠ w → Faults (.addAt w rd rs1 rs2) s .width) ∧
      (x.width = w → y.width = w → ∃ t, exec (.addAt w rd rs1 rs2) s = .next t ∧
        WroteRegAndCarry rd w ((x.toNat + y.toNat) % 2 ^ w.bits) (2 ^ w.bits ≤ x.toNat + y.toNat) s t)

/-- MUL.w (mul128, mul192, mul256): encoding, faults, and the effect: the product by `opa` modulo 2^w, C and OVS report
lost bits (41_addmul.md R71). -/
def Obligations.MulWritesProductAndCarry : Prop :=
  ∀ (w : Width) (rd rs1 : WReg) (s : State),
    decode (word 0x11 w.code (reg rd) (reg rs1) 0 0) = .ok (.mulAt w rd rs1) ∧
    (s.wide rs1 = none → Faults (.mulAt w rd rs1) s .empty) ∧
    ∀ x, s.wide rs1 = some x →
      (x.width ≠ w → Faults (.mulAt w rd rs1) s .width) ∧
      (x.width = w → ∃ t, exec (.mulAt w rd rs1) s = .next t ∧
        WroteRegAndCarry rd w (x.toNat * s.opa.toNat % 2 ^ w.bits) (2 ^ w.bits ≤ x.toNat * s.opa.toNat) s t)

/-- What the spec infers itself: "after a fault-free ADD or MUL, the value in Wd equals the exact sum or product if and only
if C = 0" (41_addmul.md, marked derived). -/
def Obligations.CarryTellsWhetherTheResultIsExact : Prop :=
  (∀ w rd rs1 rs2 s t x y z, exec (.addAt w rd rs1 rs2) s = .next t → t.rsp = some ⟨false, 0, 0⟩ →
    s.wide rs1 = some x → s.wide rs2 = some y → t.wide rd = some z →
    (z.toNat = x.toNat + y.toNat ↔ t.status.c = false)) ∧
  ∀ w rd rs1 s t x z, exec (.mulAt w rd rs1) s = .next t → t.rsp = some ⟨false, 0, 0⟩ →
    s.wide rs1 = some x → t.wide rd = some z → (z.toNat = x.toNat * s.opa.toNat ↔ t.status.c = false)

/-- Values of w bits held in registers wider by at least 64 bits cannot overflow: ADD and MUL at the wider width give the
exact result with C = 0. A 256-bit value times a word has no wider type to go to, and C reports whether it fits. What the
spec infers itself: "Widening makes overflow impossible" (41_addmul.md, marked derived). -/
def Obligations.WideningMakesOverflowImpossible : Prop :=
  (∀ (rd rs1 : WReg) (x : Nat) (s : State), s.Holds rs1 .w256 x →
    ∃ t, exec (.mul256 rd rs1) s = .next t ∧ (t.status.c = true ↔ 2 ^ 256 ≤ x * s.opa.toNat)) ∧
  ∀ (w w' : Width) (rd rs1 rs2 : WReg) (x y : Nat) (s : State), w.bits + 64 ≤ w'.bits → x < 2 ^ w.bits →
    y < 2 ^ w.bits → s.Holds rs1 w' x → s.Holds rs2 w' y →
    (∃ t, exec (.addAt w' rd rs1 rs2) s = .next t ∧ t.Holds rd w' (x + y) ∧ t.status.c = false) ∧
    ∃ t, exec (.mulAt w' rd rs1) s = .next t ∧ t.Holds rd w' (x * s.opa.toNat) ∧ t.status.c = false

/-- ADD is commutative in its sources; adding zero copies; MUL by a table divisor, after WIDEN to a width that makes C = 0,
is undone by DIVC with remainder 0. What the spec infers itself: "Laws a model may be checked against" (41_addmul.md, marked
derived). -/
def Obligations.ArithmeticLaws : Prop :=
  (∀ w rd rs1 rs2 s, exec (.addAt w rd rs1 rs2) s = exec (.addAt w rd rs2 rs1) s) ∧
  (∀ w rd rs1 rs2 s x, s.Holds rs1 w x → s.Holds rs2 w 0 →
    ∃ t, exec (.addAt w rd rs1 rs2) s = .next t ∧ t.Holds rd w x ∧ t.status.c = false) ∧
  ∀ w w' rd rs1 c s x t u, s.Holds rs1 w x → w.bits ≤ w'.bits → s.opa.toNat = divisorValue c →
    exec (.widenAt w' rd rs1) s = .next t → exec (.mulAt w' rd rd) t = .next u → u.status.c = false →
    ∃ v, exec (.divcAt w' rd rd c) u = .next v ∧ v.Holds rd w' x ∧ v.rem = 0

/-! ### Divider -/

/-- DIVC.w (divc128, divc192, divc256): the divisor table, encoding, faults, and the effect: the floor quotient, REM, and
nothing else (42_divide.md R75, R76). -/
def Obligations.DivcWritesQuotientAndRemainder : Prop :=
  (divisorValue .d10 = 10 ∧ divisorValue .d1e4 = 10 ^ 4 ∧ divisorValue .d19n = 10 ^ 19 - 1 ∧
    divisorValue .d1e19 = 10 ^ 19) ∧
  (Divisor.code .d10 = 0 ∧ Divisor.code .d1e4 = 1 ∧ Divisor.code .d19n = 2 ∧ Divisor.code .d1e19 = 3) ∧
  ∀ (w : Width) (rd rs1 : WReg) (c : Divisor) (s : State),
    decode (word 0x12 w.code (reg rd) (reg rs1) 0 (c.code.setWidth 10)) = .ok (.divcAt w rd rs1 c) ∧
    (s.wide rs1 = none → Faults (.divcAt w rd rs1 c) s .empty) ∧
    ∀ x, s.wide rs1 = some x →
      (x.width ≠ w → Faults (.divcAt w rd rs1 c) s .width) ∧
      (x.width = w → ∃ t, exec (.divcAt w rd rs1 c) s = .next t ∧
        t.Holds rd w (x.toNat / divisorValue c) ∧ t.rem.toNat = x.toNat % divisorValue c ∧
        SameRegsBut rd s t ∧ t.status = s.status ∧ t.rm = s.rm ∧ t.rres = s.rres ∧ SamePort s t ∧
        t.rsp = some ⟨false, 0, 0⟩)

/-- The division law, which the spec infers itself: v = value(Wd)·d + REM with REM below d, "and these two conditions
determine value(Wd) and REM uniquely" (42_divide.md, marked derived). -/
def Obligations.DivisionLaw : Prop :=
  ∀ w rd rs1 c s t x, exec (.divcAt w rd rs1 c) s = .next t → t.rsp = some ⟨false, 0, 0⟩ → s.wide rs1 = some x →
    ∃ z, t.wide rd = some z ∧ x.toNat = z.toNat * divisorValue c + t.rem.toNat ∧ t.rem.toNat < divisorValue c ∧
      ∀ q r, x.toNat = q * divisorValue c + r → r < divisorValue c → q = z.toNat ∧ r = t.rem.toNat

/-! ### Shifter and leading-zero counter -/

/-- SHL.w (shl128, shl192, shl256): encoding, faults, and the effect: (v * 2^opa) mod 2^w for every 64-bit amount
(43_shift_clz.md R80). -/
def Obligations.ShlShiftsByTheOperand : Prop :=
  ∀ (w : Width) (rd rs1 : WReg) (s : State),
    decode (word 0x18 w.code (reg rd) (reg rs1) 0 0) = .ok (.shlAt w rd rs1) ∧
    (s.wide rs1 = none → Faults (.shlAt w rd rs1) s .empty) ∧
    ∀ x, s.wide rs1 = some x →
      (x.width ≠ w → Faults (.shlAt w rd rs1) s .width) ∧
      (x.width = w → ∃ t, exec (.shlAt w rd rs1) s = .next t ∧
        WroteReg rd w (x.toNat * 2 ^ s.opa.toNat % 2 ^ w.bits) s t ∧
        (w.bits ≤ s.opa.toNat → t.Holds rd w 0))

/-- SHLI.w (shli128, shli192, shli256): encoding, faults, and the effect: (v * 2^n) mod 2^w (43_shift_clz.md R81). -/
def Obligations.ShliShiftsByTheImmediate : Prop :=
  ∀ (w : Width) (rd rs1 : WReg) (n : Nat) (s : State),
    (n < 1024 → decode (word 0x19 w.code (reg rd) (reg rs1) 0 (BitVec.ofNat 10 n)) = .ok (.shliAt w rd rs1 n)) ∧
    (s.wide rs1 = none → Faults (.shliAt w rd rs1 n) s .empty) ∧
    ∀ x, s.wide rs1 = some x →
      (x.width ≠ w → Faults (.shliAt w rd rs1 n) s .width) ∧
      (x.width = w → ∃ t, exec (.shliAt w rd rs1 n) s = .next t ∧
        WroteReg rd w (x.toNat * 2 ^ n % 2 ^ w.bits) s t ∧ (w.bits ≤ n → t.Holds rd w 0))

/-- CLZ.w (clz128, clz192, clz256): encoding, faults, and the answer: w for 0, else the number of 0 bits above the highest
1 bit; no state changes (43_shift_clz.md R82). -/
def Obligations.ClzCountsTheWholeValue : Prop :=
  ∀ (w : Width) (rs1 : WReg) (s : State),
    decode (word 0x1A w.code 0 (reg rs1) 0 0) = .ok (.clzAt w rs1) ∧
    (s.wide rs1 = none → Faults (.clzAt w rs1) s .empty) ∧
    ∀ x, s.wide rs1 = some x →
      (x.width ≠ w → Faults (.clzAt w rs1) s .width) ∧
      (x.width = w → ∃ n, OnlyAnswers (.clzAt w rs1) s (BitVec.ofNat 64 n) ∧
        (x.toNat = 0 → n = w.bits) ∧
        (x.toNat ≠ 0 → n < w.bits ∧ 2 ^ (w.bits - 1 - n) ≤ x.toNat ∧ x.toNat < 2 ^ (w.bits - n)))

/-- CLZT.w (clzt128, clzt192, clzt256): encoding, faults, and the answer: the same count over the most significant word
only; no state changes (43_shift_clz.md R83). -/
def Obligations.ClztCountsTheTopWord : Prop :=
  ∀ (w : Width) (rs1 : WReg) (s : State),
    decode (word 0x1B w.code 0 (reg rs1) 0 0) = .ok (.clztAt w rs1) ∧
    (s.wide rs1 = none → Faults (.clztAt w rs1) s .empty) ∧
    ∀ x, s.wide rs1 = some x →
      (x.width ≠ w → Faults (.clztAt w rs1) s .width) ∧
      (x.width = w → ∃ n, OnlyAnswers (.clztAt w rs1) s (BitVec.ofNat 64 n) ∧
        (x.toNat / 2 ^ (w.bits - 64) = 0 → n = 64) ∧
        (x.toNat / 2 ^ (w.bits - 64) ≠ 0 → n < 64 ∧ 2 ^ (63 - n) ≤ x.toNat / 2 ^ (w.bits - 64) ∧
          x.toNat / 2 ^ (w.bits - 64) < 2 ^ (64 - n)))

/-- The relations between shift and count, said of the functions SHL, CLZ and CLZT compute: CLZT = min(CLZ, 64); a shift
loses no 1 bit if and only if the value is 0 or the amount is at most CLZ; hence a shift by CLZT loses none; a shift by
CLZ, or the loop of at most w/64 shifts by CLZT, sets bit w - 1 of a non-zero value; for zero CLZT answers 64 for ever. What the spec infers itself: "Relations between the four
commands" (43_shift_clz.md, marked derived). -/
def Obligations.ShiftAndCountRelations : Prop :=
  (∀ (w : Width) (rd rs1 : WReg) (v : Nat) (s : State), s.Holds rs1 w v →
    OnlyAnswers (.clzAt w rs1) s (BitVec.ofNat 64 (leadingZeros w.bits v)) ∧
    OnlyAnswers (.clztAt w rs1) s (BitVec.ofNat 64 (leadingZeros 64 (wordOf v (w.words - 1)).toNat)) ∧
    ∃ t, exec (.shlAt w rd rs1) s = .next t ∧ t.Holds rd w (shiftLeft w v s.opa.toNat)) ∧
  ∀ (w : Width) (v : Nat), v < 2 ^ w.bits →
    leadingZeros 64 (wordOf v (w.words - 1)).toNat = min (leadingZeros w.bits v) 64 ∧
    (∀ n, shiftLeft w v n = v * 2 ^ n ↔ v = 0 ∨ n ≤ leadingZeros w.bits v) ∧
    shiftLeft w v (leadingZeros 64 (wordOf v (w.words - 1)).toNat) =
      v * 2 ^ leadingZeros 64 (wordOf v (w.words - 1)).toNat ∧
    (v ≠ 0 → 2 ^ (w.bits - 1) ≤ shiftLeft w v (leadingZeros w.bits v) ∧
      normalizeLoop w w.words v = shiftLeft w v (leadingZeros w.bits v) ∧
      leadingZeros 64 (wordOf (normalizeLoop w w.words v) (w.words - 1)).toNat = 0) ∧
    (v = 0 → leadingZeros 64 (wordOf v (w.words - 1)).toNat = 64 ∧ shiftLeft w v 64 = 0)

/-! ### Rounding engine -/

/-- The number of digits dropped is the least k with (s div 10^k) < LIMIT and e + k ≥ 0; it is max(kd, -e, 0) with kd at
most 5; from 39 on the quotient is 0, the remainder is s and s is below half (44_round.md section 3; the last two clauses are
the spec's own inference, "k ≥ 39, s div 10^k = 0, s mod 10^k = s and s < 5·10^(k−1)"). -/
def Obligations.DropCountIsLeast : Prop :=
  ∀ (s : Nat) (e : Int), s < 2 ^ 128 →
    IsLeast {k : Nat | s / 10 ^ k < 10 ^ 34 ∧ 0 ≤ e + k} (dropCount s e) ∧
    (∃ kd ≤ 5, IsLeast {k : Nat | s / 10 ^ k < 10 ^ 34} kd ∧ (dropCount s e : Int) = max (kd : Int) (max (-e) 0)) ∧
    ∀ k, 39 ≤ k → s / 10 ^ k = 0 ∧ s % 10 ^ k = s ∧ s < 5 * 10 ^ (k - 1)

/-- RND (rnd): encoding, and, where no check fails, the result: k least, the significand divided, rounded in the mode of
CTRL.RM and renormalized, classified, and delivered in the destination, RRES and the response, with the tables of tf, position
and increment and the layout of the result word written out (30_encoding.md R48; 44_round.md R90, R93, R96 to R103). -/
def Obligations.RndNormalizesRoundsAndClassifies : Prop :=
  (∀ rd rs1 tf neg, decode (word 0x20 1 (reg rd) (reg rs1) 0 (0#7 ++ BitVec.ofBool neg ++ tfBits tf)) =
    .ok (.rnd rd rs1 tf neg)) ∧
  ∀ (rd rs1 : WReg) (tf : TruncField) (neg : Bool) (s : State) (x : BitVec 128) (t : TruncFlag) (e : Int) (k : Nat),
    s.wide rs1 = some (.u128 x) → HasFlag tf t → -2 ^ 31 ≤ e → e < 2 ^ 31 → s.opa = BitVec.ofInt 64 e →
    ¬(x.toNat = 0 ∧ t = .above) → IsLeast {k : Nat | x.toNat / 10 ^ k < 10 ^ 34 ∧ 0 ≤ e + k} k →
    ¬(k = 0 ∧ t ≠ .exact ∧ (x.toNat = 0 ∨ e ≤ s.config.maxBexp.val)) →
    ∃ (u : State) (q2 : Nat) (e2 : Int) (res : Word), exec (.rnd rd rs1 tf neg) s = .next u ∧
      FinalPair s.rm neg t x.toNat k e q2 e2 ∧ u.Holds rd .w128 q2 ∧
      Classified s.config.maxBexp.val neg q2 e2 u.rres ∧
      u.rsp = some ⟨false, 0, res⟩ ∧ IsResultWord res u.rres ∧
      SameRegsBut rd s u ∧ u.status = s.status ∧ u.rm = s.rm ∧ u.rem = s.rem ∧ SamePort s u

/-- RND's faults in the order of its checks: EMPTY, WIDTH, BADVAL, TRUNCBUG (44_round.md R95, R97). -/
def Obligations.RndFaultsInOrder : Prop :=
  ∀ (rd rs1 : WReg) (tf : TruncField) (neg : Bool) (s : State),
    (s.wide rs1 = none → Faults (.rnd rd rs1 tf neg) s .empty) ∧
    (∀ x, s.wide rs1 = some x → x.width ≠ .w128 → Faults (.rnd rd rs1 tf neg) s .width) ∧
    ∀ x : BitVec 128, s.wide rs1 = some (.u128 x) →
      (tf = .reserved ∨ s.opa ≠ (s.opa.extractLsb' 0 32).signExtend 64 ∨ (x.toNat = 0 ∧ tf = .above) →
        Faults (.rnd rd rs1 tf neg) s .badval) ∧
      ∀ t (e : Int), HasFlag tf t → -2 ^ 31 ≤ e → e < 2 ^ 31 → s.opa = BitVec.ofInt 64 e →
        ¬(x.toNat = 0 ∧ t = .above) → x.toNat < 10 ^ 34 → 0 ≤ e → t ≠ .exact →
        (x.toNat = 0 ∨ e ≤ s.config.maxBexp.val) → Faults (.rnd rd rs1 tf neg) s .truncbug

/-- What RND does not touch: STATUS, REM and CTRL keep their values, and the source keeps its value unless it is the
destination (44_round.md R104). -/
def Obligations.RndWritesOnlyDestinationAndRres : Prop :=
  ∀ rd rs1 tf neg s t r, exec (.rnd rd rs1 tf neg) s = .next t → t.rsp = some r → r.fault = false →
    t.status = s.status ∧ t.rem = s.rem ∧ t.rm = s.rm ∧ SameRegsBut rd s t ∧ (rd ≠ rs1 → t.wide rs1 = s.wide rs1) ∧
    SamePort s t

/-- The range of results of RND, and that the result is a function of (s, e, t, neg, CTRL.RM, MAX_BEXP)
alone, which the spec infers itself under "Range of results" (44_round.md section 6, marked derived). -/
def Obligations.RndResultRange : Prop :=
  (∀ rd rs1 tf neg s t r, exec (.rnd rd rs1 tf neg) s = .next t → t.rsp = some r → r.fault = false →
    ∃ z, t.wide rd = some z ∧ z.toNat < 10 ^ 34 ∧
      ((t.rres.cls = .finite ∧ 1 ≤ z.toNat ∧ 0 ≤ t.rres.exp.toInt ∧ t.rres.exp.toInt ≤ s.config.maxBexp.val) ∨
       (t.rres.cls = .zero ∧ z.toNat = 0 ∧ 0 ≤ t.rres.exp.toInt ∧ t.rres.exp.toInt ≤ s.config.maxBexp.val) ∨
       (t.rres.cls = .overflow ∧ 1 ≤ z.toNat ∧ (s.config.maxBexp.val : Int) < t.rres.exp.toInt ∧
         t.rres.exp.toInt ≤ 2 ^ 31 - 1))) ∧
  ∀ rd rd' rs rs' tf neg s s' t t' r, exec (.rnd rd rs tf neg) s = .next t → t.rsp = some r → r.fault = false →
    exec (.rnd rd' rs' tf neg) s' = .next t' → s'.wide rs' = s.wide rs → s'.opa = s.opa → s'.rm = s.rm →
    s'.config = s.config → t'.wide rd' = t.wide rd ∧ t'.rres = t.rres ∧ t'.rsp = t.rsp

/-- The rounding of T / 10^k, for every exact magnitude T the truncation flag allows: at a given k the significand before
the renormalization of R100 is T / 10^k correctly rounded to an integer in the mode. For HALF_EVEN and HALF_AWAY this is
the spec's own inference: "q2 before the renormalization of rule R100 is T/10^k rounded to an integer in the mode CTRL.RM
(with the sign `neg` for the directed modes), for every T the contract allows, in modes HALF_EVEN and HALF_AWAY". For the
directed modes the spec excepts a corner, "the ideal result would keep one more digit". That the corner concerns only the
choice of k, so that at a given k the rounding holds in these modes too, is the model's reading, DEDUCED, log entry 14
(44_round.md section 6, marked derived). -/
def Obligations.RoundingIsCorrectForEveryAllowedValue : Prop :=
  ∀ (m : RoundMode) (neg : Bool) (t : TruncFlag) (s k : Nat) (T : ℚ), s < 2 ^ 128 → 1 ≤ k → ¬(s = 0 ∧ t = .above) →
    Contract t s T → RoundsTo m neg (T / 10 ^ k) (roundedQuotient m neg t s k)

/-- A digit-at-a-time loop computes the quotient and the position of R98. The loop is the model's choice (DESIGN CHOICE, log
entry 17): it carries the last digit dropped and whether anything non-zero was dropped before it, and applies the flag at
the end. The spec infers of the document's loop, which neither the document nor R107 spells out, that "the comparison of R
with 5·10^(k−1) is decided by the last digit dropped and by whether anything non-zero was dropped before it" (44_round.md
section 6, marked derived; 91_not_in_source.md N8). -/
def Obligations.DigitLoopComputesThePosition : Prop :=
  ∀ (s k : Nat) (t : TruncFlag), 1 ≤ k →
    (LoopState.dropMany k ⟨s, 0, false⟩).position t = position (s / 10 ^ k) (s % 10 ^ k) (5 * 10 ^ (k - 1)) t

/-! ### System commands -/

/-- NOP (nop): its one word, every other word with its operation code faulting with ILLEGAL, the response (0, 0, 0), the
whole state unchanged (45_system.md R110). -/
def Obligations.NopChangesNothing : Prop :=
  (∀ w : CmdWord, decode w = .ok .nop ↔ w = 0x30000000#32) ∧
  (∀ (s : State) (c : Command) (rest : List Command), s.cmds = c :: rest → c.insn.extractLsb' 24 8 = 0x30#8 →
    c.insn ≠ 0x30000000#32 → ∃ t, step s = .next t ∧ Squashed .illegal { s with cmds := rest, opa := c.opa } t) ∧
  ∀ s, OnlyAnswers .nop s 0

/-- RDSR (rdsr): encoding, INDEX for 5 to 15, and the layout of each special register as it is read, with the codes of
causes, modes, classes and tags written out; no state changes (45_system.md R111). -/
def Obligations.RdsrAnswersTheSpecialRegister : Prop :=
  (∀ sr, sr < 16 → decode (word 0x31 0 0 0 0 (BitVec.ofNat 10 sr)) = .ok (.rdsr sr)) ∧
  ∀ s : State,
    (∀ sr, 5 ≤ sr → Faults (.rdsr sr) s .index) ∧
    (∃ v : Word, OnlyAnswers (.rdsr 0) s v ∧ v.getLsbD 0 = s.status.c ∧ v.getLsbD 1 = s.status.ovs ∧
      v.getLsbD 2 = s.status.err ∧ (v.extractLsb' 3 4).toNat = ecauseNumber s.status.ecause ∧ v.extractLsb' 7 57 = 0) ∧
    (∃ v : Word, OnlyAnswers (.rdsr 1) s v ∧ (v.extractLsb' 0 3).toNat = modeNumber s.rm ∧ v.extractLsb' 3 61 = 0) ∧
    OnlyAnswers (.rdsr 2) s s.rem ∧
    (∃ v : Word, OnlyAnswers (.rdsr 3) s v ∧ IsResultWord v s.rres) ∧
    ∃ v : Word, OnlyAnswers (.rdsr 4) s v ∧
      (∀ r : WReg, (v.extractLsb' (2 * r.val) 2).toNat = tagNumber (s.wide r)) ∧ v.extractLsb' 16 48 = 0

/-- WRSR (wrsr): encoding, INDEX for every register but CTRL, BADVAL for an illegal value, and the effect: CTRL.RM becomes
the mode of that number, 0 HALF_EVEN to 4 TOWARD_NEG, and nothing else changes (45_system.md R112). -/
def Obligations.WrsrWritesOnlyCtrl : Prop :=
  (∀ sr, sr < 16 → decode (word 0x32 0 0 0 0 (BitVec.ofNat 10 sr)) = .ok (.wrsr sr)) ∧
  ∀ s : State,
    (∀ sr, sr ≠ 1 → Faults (.wrsr sr) s .index) ∧
    (5 ≤ s.opa.toNat → Faults (.wrsr 1) s .badval) ∧
    ∀ m : RoundMode, s.opa.toNat = modeNumber m → exec (.wrsr 1) s = .next { s with rm := m, rsp := some ⟨false, 0, 0⟩ }

/-- CLRST (clrst): encoding and effect: mask bit 0 clears ERR and ECAUSE, mask bit 1 clears OVS, C stays, nothing else
changes, no fault (45_system.md R113). -/
def Obligations.ClrstClearsOnlyItsBits : Prop :=
  (∀ m : BitVec 2, decode (word 0x33 0 0 0 0 (m.setWidth 10)) = .ok (.clrst m)) ∧
  ∀ (m : BitVec 2) (s : State),
    exec (.clrst m) s = .next { s with
      status := ⟨s.status.c, s.status.ovs && !m.getLsbD 1, s.status.err && !m.getLsbD 0,
        if m.getLsbD 0 = true then none else s.status.ecause⟩
      rsp := some ⟨false, 0, 0⟩ }
end

