-- ==== Sys2Proof/Laws/State.lean ====
section
/-! SUPPORT. What each update of the state does to each field, true by unfolding and tagged for simp. -/

namespace Sys2Proof.Machine

/-! ### `State.setWide` -/

@[simp] theorem State.setWide_status (s : State) (r : WReg) (w : Width) (n : Nat) : (s.setWide r w n).status = s.status := rfl
@[simp] theorem State.setWide_rm (s : State) (r : WReg) (w : Width) (n : Nat) : (s.setWide r w n).rm = s.rm := rfl
@[simp] theorem State.setWide_rem (s : State) (r : WReg) (w : Width) (n : Nat) : (s.setWide r w n).rem = s.rem := rfl
@[simp] theorem State.setWide_rres (s : State) (r : WReg) (w : Width) (n : Nat) : (s.setWide r w n).rres = s.rres := rfl
@[simp] theorem State.setWide_config (s : State) (r : WReg) (w : Width) (n : Nat) : (s.setWide r w n).config = s.config := rfl
@[simp] theorem State.setWide_cmds (s : State) (r : WReg) (w : Width) (n : Nat) : (s.setWide r w n).cmds = s.cmds := rfl
@[simp] theorem State.setWide_opa (s : State) (r : WReg) (w : Width) (n : Nat) : (s.setWide r w n).opa = s.opa := rfl
@[simp] theorem State.setWide_rsp (s : State) (r : WReg) (w : Width) (n : Nat) : (s.setWide r w n).rsp = s.rsp := rfl

/-! ### `State.accept` -/

@[simp] theorem State.accept_regs (s : State) (c : Command) (rest : List Command) : (s.accept c rest).regs = s.regs := rfl
@[simp] theorem State.accept_status (s : State) (c : Command) (rest : List Command) : (s.accept c rest).status = s.status := rfl
@[simp] theorem State.accept_rm (s : State) (c : Command) (rest : List Command) : (s.accept c rest).rm = s.rm := rfl
@[simp] theorem State.accept_rem (s : State) (c : Command) (rest : List Command) : (s.accept c rest).rem = s.rem := rfl
@[simp] theorem State.accept_rres (s : State) (c : Command) (rest : List Command) : (s.accept c rest).rres = s.rres := rfl
@[simp] theorem State.accept_config (s : State) (c : Command) (rest : List Command) : (s.accept c rest).config = s.config := rfl
@[simp] theorem State.accept_cmds (s : State) (c : Command) (rest : List Command) : (s.accept c rest).cmds = rest := rfl
@[simp] theorem State.accept_opa (s : State) (c : Command) (rest : List Command) : (s.accept c rest).opa = c.opa := rfl
@[simp] theorem State.accept_rsp (s : State) (c : Command) (rest : List Command) : (s.accept c rest).rsp = s.rsp := rfl
@[simp] theorem State.accept_wide (s : State) (c : Command) (rest : List Command) (r' : WReg) : (s.accept c rest).wide r' = s.wide r' := rfl

/-! ### `State.answer` -/

@[simp] theorem State.answer_regs (s : State) (res : Word) : (s.answer res).regs = s.regs := rfl
@[simp] theorem State.answer_status (s : State) (res : Word) : (s.answer res).status = s.status := rfl
@[simp] theorem State.answer_rm (s : State) (res : Word) : (s.answer res).rm = s.rm := rfl
@[simp] theorem State.answer_rem (s : State) (res : Word) : (s.answer res).rem = s.rem := rfl
@[simp] theorem State.answer_rres (s : State) (res : Word) : (s.answer res).rres = s.rres := rfl
@[simp] theorem State.answer_config (s : State) (res : Word) : (s.answer res).config = s.config := rfl
@[simp] theorem State.answer_cmds (s : State) (res : Word) : (s.answer res).cmds = s.cmds := rfl
@[simp] theorem State.answer_opa (s : State) (res : Word) : (s.answer res).opa = s.opa := rfl
@[simp] theorem State.answer_rsp (s : State) (res : Word) : (s.answer res).rsp = some ⟨false, 0, res⟩ := rfl
@[simp] theorem State.answer_wide (s : State) (res : Word) (r' : WReg) : (s.answer res).wide r' = s.wide r' := rfl

/-! ### `State.raise` -/

@[simp] theorem State.raise_regs (s : State) (c : Cause) : (s.raise c).regs = s.regs := rfl
@[simp] theorem State.raise_status (s : State) (c : Cause) : (s.raise c).status = { s.status with err := true, ecause := if s.status.err then s.status.ecause else some c } := rfl
@[simp] theorem State.raise_rm (s : State) (c : Cause) : (s.raise c).rm = s.rm := rfl
@[simp] theorem State.raise_rem (s : State) (c : Cause) : (s.raise c).rem = s.rem := rfl
@[simp] theorem State.raise_rres (s : State) (c : Cause) : (s.raise c).rres = s.rres := rfl
@[simp] theorem State.raise_config (s : State) (c : Cause) : (s.raise c).config = s.config := rfl
@[simp] theorem State.raise_cmds (s : State) (c : Cause) : (s.raise c).cmds = s.cmds := rfl
@[simp] theorem State.raise_opa (s : State) (c : Cause) : (s.raise c).opa = s.opa := rfl
@[simp] theorem State.raise_rsp (s : State) (c : Cause) : (s.raise c).rsp = some ⟨true, c.code, 0⟩ := rfl
@[simp] theorem State.raise_wide (s : State) (c : Cause) (r' : WReg) : (s.raise c).wide r' = s.wide r' := rfl

/-! ### `State.clearFault` -/

@[simp] theorem State.clearFault_regs (s : State) : (s.clearFault).regs = s.regs := rfl
@[simp] theorem State.clearFault_status (s : State) : (s.clearFault).status = { s.status with err := false, ecause := none } := rfl
@[simp] theorem State.clearFault_rm (s : State) : (s.clearFault).rm = s.rm := rfl
@[simp] theorem State.clearFault_rem (s : State) : (s.clearFault).rem = s.rem := rfl
@[simp] theorem State.clearFault_rres (s : State) : (s.clearFault).rres = s.rres := rfl
@[simp] theorem State.clearFault_config (s : State) : (s.clearFault).config = s.config := rfl
@[simp] theorem State.clearFault_cmds (s : State) : (s.clearFault).cmds = s.cmds := rfl
@[simp] theorem State.clearFault_opa (s : State) : (s.clearFault).opa = s.opa := rfl
@[simp] theorem State.clearFault_rsp (s : State) : (s.clearFault).rsp = s.rsp := rfl
@[simp] theorem State.clearFault_wide (s : State) (r' : WReg) : (s.clearFault).wide r' = s.wide r' := rfl

/-! ### `State.clearOvs` -/

@[simp] theorem State.clearOvs_regs (s : State) : (s.clearOvs).regs = s.regs := rfl
@[simp] theorem State.clearOvs_status (s : State) : (s.clearOvs).status = { s.status with ovs := false } := rfl
@[simp] theorem State.clearOvs_rm (s : State) : (s.clearOvs).rm = s.rm := rfl
@[simp] theorem State.clearOvs_rem (s : State) : (s.clearOvs).rem = s.rem := rfl
@[simp] theorem State.clearOvs_rres (s : State) : (s.clearOvs).rres = s.rres := rfl
@[simp] theorem State.clearOvs_config (s : State) : (s.clearOvs).config = s.config := rfl
@[simp] theorem State.clearOvs_cmds (s : State) : (s.clearOvs).cmds = s.cmds := rfl
@[simp] theorem State.clearOvs_opa (s : State) : (s.clearOvs).opa = s.opa := rfl
@[simp] theorem State.clearOvs_rsp (s : State) : (s.clearOvs).rsp = s.rsp := rfl
@[simp] theorem State.clearOvs_wide (s : State) (r' : WReg) : (s.clearOvs).wide r' = s.wide r' := rfl

/-! ### `State.setCarry` -/

@[simp] theorem State.setCarry_regs (s : State) (l : Bool) : (s.setCarry l).regs = s.regs := rfl
@[simp] theorem State.setCarry_status (s : State) (l : Bool) : (s.setCarry l).status = { s.status with c := l, ovs := s.status.ovs || l } := rfl
@[simp] theorem State.setCarry_rm (s : State) (l : Bool) : (s.setCarry l).rm = s.rm := rfl
@[simp] theorem State.setCarry_rem (s : State) (l : Bool) : (s.setCarry l).rem = s.rem := rfl
@[simp] theorem State.setCarry_rres (s : State) (l : Bool) : (s.setCarry l).rres = s.rres := rfl
@[simp] theorem State.setCarry_config (s : State) (l : Bool) : (s.setCarry l).config = s.config := rfl
@[simp] theorem State.setCarry_cmds (s : State) (l : Bool) : (s.setCarry l).cmds = s.cmds := rfl
@[simp] theorem State.setCarry_opa (s : State) (l : Bool) : (s.setCarry l).opa = s.opa := rfl
@[simp] theorem State.setCarry_rsp (s : State) (l : Bool) : (s.setCarry l).rsp = s.rsp := rfl
@[simp] theorem State.setCarry_wide (s : State) (l : Bool) (r' : WReg) : (s.setCarry l).wide r' = s.wide r' := rfl

/-! ### `State.setRm` -/

@[simp] theorem State.setRm_regs (s : State) (v : RoundMode) : (s.setRm v).regs = s.regs := rfl
@[simp] theorem State.setRm_status (s : State) (v : RoundMode) : (s.setRm v).status = s.status := rfl
@[simp] theorem State.setRm_rm (s : State) (v : RoundMode) : (s.setRm v).rm = v := rfl
@[simp] theorem State.setRm_rem (s : State) (v : RoundMode) : (s.setRm v).rem = s.rem := rfl
@[simp] theorem State.setRm_rres (s : State) (v : RoundMode) : (s.setRm v).rres = s.rres := rfl
@[simp] theorem State.setRm_config (s : State) (v : RoundMode) : (s.setRm v).config = s.config := rfl
@[simp] theorem State.setRm_cmds (s : State) (v : RoundMode) : (s.setRm v).cmds = s.cmds := rfl
@[simp] theorem State.setRm_opa (s : State) (v : RoundMode) : (s.setRm v).opa = s.opa := rfl
@[simp] theorem State.setRm_rsp (s : State) (v : RoundMode) : (s.setRm v).rsp = s.rsp := rfl
@[simp] theorem State.setRm_wide (s : State) (v : RoundMode) (r' : WReg) : (s.setRm v).wide r' = s.wide r' := rfl

/-! ### `State.setRem` -/

@[simp] theorem State.setRem_regs (s : State) (v : Word) : (s.setRem v).regs = s.regs := rfl
@[simp] theorem State.setRem_status (s : State) (v : Word) : (s.setRem v).status = s.status := rfl
@[simp] theorem State.setRem_rm (s : State) (v : Word) : (s.setRem v).rm = s.rm := rfl
@[simp] theorem State.setRem_rem (s : State) (v : Word) : (s.setRem v).rem = v := rfl
@[simp] theorem State.setRem_rres (s : State) (v : Word) : (s.setRem v).rres = s.rres := rfl
@[simp] theorem State.setRem_config (s : State) (v : Word) : (s.setRem v).config = s.config := rfl
@[simp] theorem State.setRem_cmds (s : State) (v : Word) : (s.setRem v).cmds = s.cmds := rfl
@[simp] theorem State.setRem_opa (s : State) (v : Word) : (s.setRem v).opa = s.opa := rfl
@[simp] theorem State.setRem_rsp (s : State) (v : Word) : (s.setRem v).rsp = s.rsp := rfl
@[simp] theorem State.setRem_wide (s : State) (v : Word) (r' : WReg) : (s.setRem v).wide r' = s.wide r' := rfl

/-! ### `State.setRres` -/

@[simp] theorem State.setRres_regs (s : State) (v : RRes) : (s.setRres v).regs = s.regs := rfl
@[simp] theorem State.setRres_status (s : State) (v : RRes) : (s.setRres v).status = s.status := rfl
@[simp] theorem State.setRres_rm (s : State) (v : RRes) : (s.setRres v).rm = s.rm := rfl
@[simp] theorem State.setRres_rem (s : State) (v : RRes) : (s.setRres v).rem = s.rem := rfl
@[simp] theorem State.setRres_rres (s : State) (v : RRes) : (s.setRres v).rres = v := rfl
@[simp] theorem State.setRres_config (s : State) (v : RRes) : (s.setRres v).config = s.config := rfl
@[simp] theorem State.setRres_cmds (s : State) (v : RRes) : (s.setRres v).cmds = s.cmds := rfl
@[simp] theorem State.setRres_opa (s : State) (v : RRes) : (s.setRres v).opa = s.opa := rfl
@[simp] theorem State.setRres_rsp (s : State) (v : RRes) : (s.setRres v).rsp = s.rsp := rfl
@[simp] theorem State.setRres_wide (s : State) (v : RRes) (r' : WReg) : (s.setRres v).wide r' = s.wide r' := rfl

/-! ### Reading a wide register after a write -/

/-- A read of the register written gives the value written, at its width. -/
@[simp] theorem State.setWide_wide_self (s : State) (r : WReg) (w : Width) (n : Nat) :
    (s.setWide r w n).wide r = some (Wide.ofNat w n) := by
  simp [State.setWide, State.wide, Vector.get_eq_getElem]

/-- A write leaves every other register alone. -/
theorem State.setWide_wide_of_ne (s : State) {r r' : WReg} (w : Width) (n : Nat) (h : r' ≠ r) :
    (s.setWide r w n).wide r' = s.wide r' := by
  have h' : r.val ≠ r'.val := fun e => h (Fin.ext e.symm)
  simp [State.setWide, State.wide, Vector.get_eq_getElem, Vector.getElem_set_ne _ _ h']

/-- Every register reads EMPTY after reset. -/
@[simp] theorem State.reset_wide (r : WReg) : State.reset.wide r = none := by
  simp [State.reset, State.wide, Vector.get_eq_getElem]

/-! ### Values of wide registers -/

/-- A value written at width `w` has that width. -/
@[simp] theorem Wide.ofNat_width (w : Width) (n : Nat) : (Wide.ofNat w n).width = w := by
  cases w <;> rfl

/-- A value written at width `w` is the number modulo 2^w. -/
@[simp] theorem Wide.ofNat_toNat (w : Width) (n : Nat) : (Wide.ofNat w n).toNat = n % 2 ^ w.bits := by
  cases w <;> simp [Wide.ofNat, Wide.toNat, Width.bits]

/-- A value is below 2 to the width of its tag. -/
theorem Wide.toNat_lt (x : Wide) : x.toNat < 2 ^ x.width.bits := by
  cases x <;> simp only [Wide.toNat, Wide.width, Width.bits] <;> exact BitVec.isLt _

/-- Tag and integer determine a value. -/
theorem Wide.ext_toNat {x y : Wide} (hw : x.width = y.width) (hn : x.toNat = y.toNat) : x = y := by
  cases x <;> cases y <;> simp_all [Wide.width, Wide.toNat, BitVec.toNat_inj]

end Sys2Proof.Machine

namespace Sys2Proof

/-- A width has 64 bits for each of its words. -/
theorem Width.bits_eq_words (w : Width) : w.bits = 64 * w.words := by cases w <;> rfl

end Sys2Proof
end

