-- ==== Sys2Proof/Laws/Ops.lean ====
section
/-! SUPPORT. One lemma per shared operation that says everything it can do, for later proofs to cite. -/

namespace Sys2Proof.Machine

/-! ### Operand checks -/

/-- `req_any`: EMPTY exactly on an EMPTY register, else the value. -/
theorem State.reqAny_cases (s : State) (r : WReg) :
    (s.wide r = none ∧ s.reqAny r = .error .empty) ∨ ∃ x, s.wide r = some x ∧ s.reqAny r = .ok x := by
  unfold State.reqAny
  cases s.wide r <;> simp

/-- `req`: EMPTY, WIDTH, or the integer in a register of the width asked for. -/
theorem State.req_cases (s : State) (r : WReg) (w : Width) :
    (s.wide r = none ∧ s.req r w = .error .empty) ∨
    (∃ x, s.wide r = some x ∧ x.width ≠ w ∧ s.req r w = .error .width) ∨
    ∃ x, s.wide r = some x ∧ x.width = w ∧ s.req r w = .ok x.toNat := by
  unfold State.req
  cases s.wide r with
  | none => simp
  | some x => by_cases h : x.width = w <;> simp [h]

@[simp] theorem State.req_none {s : State} {r : WReg} {w : Width} (h : s.wide r = none) :
    s.req r w = .error .empty := by simp [State.req, h]

@[simp] theorem State.req_some {s : State} {r : WReg} {w : Width} {x : Wide} (h : s.wide r = some x)
    (hw : x.width = w) : s.req r w = .ok x.toNat := by simp [State.req, h, hw]

@[simp] theorem State.req_width {s : State} {r : WReg} {w : Width} {x : Wide} (h : s.wide r = some x)
    (hw : x.width ≠ w) : s.req r w = .error .width := by simp [State.req, h, hw]

/-- The sources of ADD: EMPTY when either is EMPTY, else WIDTH when either has another width, else the integers. -/
theorem State.reqBoth_cases (s : State) (r1 r2 : WReg) (w : Width) :
    ((s.wide r1 = none ∨ s.wide r2 = none) ∧ s.reqBoth r1 r2 w = .error .empty) ∨
    (∃ x y, s.wide r1 = some x ∧ s.wide r2 = some y ∧ ¬(x.width = w ∧ y.width = w) ∧
      s.reqBoth r1 r2 w = .error .width) ∨
    ∃ x y, s.wide r1 = some x ∧ s.wide r2 = some y ∧ x.width = w ∧ y.width = w ∧
      s.reqBoth r1 r2 w = .ok (x.toNat, y.toNat) := by
  unfold State.reqBoth
  cases s.wide r1 with
  | none => simp
  | some x =>
    cases s.wide r2 with
    | none => simp
    | some y => by_cases h : x.width = w ∧ y.width = w <;> simp_all

/-- A word of a register: EMPTY, INDEX, or the value of a register that has the word. -/
theorem State.reqWord_cases (s : State) (r : WReg) (i : Nat) :
    (s.wide r = none ∧ s.reqWord r i = .error .empty) ∨
    (∃ x, s.wide r = some x ∧ x.width.words ≤ i ∧ s.reqWord r i = .error .index) ∨
    ∃ x, s.wide r = some x ∧ i < x.width.words ∧ s.reqWord r i = .ok x := by
  unfold State.reqWord State.reqAny
  cases s.wide r with
  | none => simp
  | some x =>
    by_cases h : x.width.words ≤ i
    · exact .inr (.inl ⟨x, rfl, h, by simp [h]⟩)
    · exact .inr (.inr ⟨x, rfl, by omega, by simp [h]⟩)

/-! ### How a command ends -/

@[simp] theorem State.settle_ok (s t : State) : s.settle (.ok t) = .next t := rfl

@[simp] theorem State.settle_error (s : State) (c : Cause) : s.settle (.error c) = .next (s.raise c) := rfl

/-- A command always ends in a next state: the one its rule gives, or the fault entered on the state before. -/
theorem State.settle_cases (s : State) (b : Except Cause State) :
    (∃ t, b = .ok t ∧ s.settle b = .next t) ∨ ∃ c, b = .error c ∧ s.settle b = .next (s.raise c) := by
  cases b <;> simp [State.settle]

/-- Fault entry leaves a squashed state. -/
theorem State.raise_squashed (s : State) (c : Cause) : Squashed c s (s.raise c) where
  regs _ := rfl
  carry := rfl
  ovs := rfl
  ecause := rfl
  err := rfl
  rm := rfl
  rem := rfl
  rres := rfl
  port := ⟨rfl, rfl, rfl⟩
  rsp := rfl

/-- A squashed state is the one fault entry leaves. -/
theorem Squashed.eq_raise {c : Cause} {s t : State} (h : Squashed c s t) : t = s.raise c := by
  obtain ⟨hr, hc, ho, he, h1, h2, h3, h4, ⟨h5, h6, h7⟩, h8⟩ := h
  have hregs : t.regs = s.regs := by
    apply Vector.ext
    intro i hi
    simpa [State.wide, Vector.get_eq_getElem] using hr ⟨i, hi⟩
  obtain ⟨_, ⟨_, _, _, _⟩, _, _, _, _, _, _, _⟩ := t
  simp only at hregs hc ho he h1 h2 h3 h4 h5 h6 h7 h8
  subst hregs hc ho he h1 h2 h3 h4 h5 h6 h7 h8
  rfl

/-- Cause codes tell the causes apart. -/
theorem Cause.code_injective {c d : Cause} (h : c.code = d.code) : c = d := by
  revert h; cases c <;> cases d <;> decide

/-! ### What a write leaves -/

/-- A register write and an answer leave everything else alone. -/
theorem State.setWide_answer_wroteReg (s : State) (rd : WReg) (w : Width) (n : Nat) :
    WroteReg rd w (n % 2 ^ w.bits) s ((s.setWide rd w n).answer 0) where
  dest := ⟨Wide.ofNat w n, by simp, by simp, by simp⟩
  regs r h := by simp [State.setWide_wide_of_ne s w n h]
  status := rfl
  rm := rfl
  rem := rfl
  rres := rfl
  port := ⟨rfl, rfl, rfl⟩
  rsp := rfl

/-- A register write with the carry flags and an answer leaves everything else alone. -/
theorem State.setWide_setCarry_answer_wrote (s : State) (rd : WReg) (w : Width) (n : Nat) :
    WroteRegAndCarry rd w (n % 2 ^ w.bits) (2 ^ w.bits ≤ n) s
      (((s.setWide rd w n).setCarry (lostBits w n)).answer 0) where
  dest := ⟨Wide.ofNat w n, by simp, by simp, by simp⟩
  regs r h := by simp [State.setWide_wide_of_ne s w n h]
  carry := by simp [lostBits]
  ovs := by simp [lostBits]
  err := rfl
  ecause := rfl
  rm := rfl
  rem := rfl
  rres := rfl
  port := ⟨rfl, rfl, rfl⟩
  rsp := rfl

end Sys2Proof.Machine
end

