-- ==== Sys2Proof/Laws/Round.lean ====
section
/-! SUPPORT. The shared functions of the rounding engine, one lemma for each. -/

namespace Sys2Proof.Machine

/-- `digitsOver` with enough fuel counts the divisions by 10 that bring `s` below LIMIT: after that many it is below,
after fewer it is not. -/
theorem digitsOver_spec (fuel s : Nat) (h : s < limit * 10 ^ fuel) :
    s / 10 ^ digitsOver fuel s < limit ∧ ∀ j, j < digitsOver fuel s → limit ≤ s / 10 ^ j := by
  induction fuel generalizing s with
  | zero => simpa [digitsOver] using h
  | succ fuel ih =>
    by_cases hs : s < limit
    · simp [digitsOver, hs]
    · have hdiv : s / 10 < limit * 10 ^ fuel := by
        rw [Nat.div_lt_iff_lt_mul (by norm_num)]
        calc s < limit * 10 ^ (fuel + 1) := h
          _ = limit * 10 ^ fuel * 10 := by ring
      obtain ⟨hlt, hge⟩ := ih (s / 10) hdiv
      have hstep : ∀ j, s / 10 ^ (j + 1) = s / 10 / 10 ^ j := fun j => by
        rw [Nat.div_div_eq_div_mul, Nat.pow_succ, Nat.mul_comm]
      simp only [digitsOver, if_neg hs]
      refine ⟨by rw [hstep]; exact hlt, fun j hj => ?_⟩
      cases j with
      | zero => simpa using hs
      | succ j => rw [hstep]; exact hge j (by omega)

/-- For a 128-bit significand, six divisions are enough. -/
theorem limit_mul_gt_of_lt {s : Nat} (h : s < 2 ^ 128) : s < limit * 10 ^ 6 :=
  lt_of_lt_of_le h (by norm_num [limit])

/-- From 39 dropped digits on, quotient, remainder and position of a 128-bit significand no longer depend on how many
(44_round.md R96). -/
theorem position_cap {s k : Nat} (h : s < 2 ^ 128) (hk : 39 ≤ k) (t : TruncFlag) :
    position (s / 10 ^ 39) (s % 10 ^ 39) (5 * 10 ^ 38) t = position (s / 10 ^ k) (s % 10 ^ k) (5 * 10 ^ (k - 1)) t := by
  have h38 : s < 5 * 10 ^ 38 := lt_of_lt_of_le h (by norm_num)
  have h39 : s < 10 ^ 39 := lt_of_lt_of_le h (by norm_num)
  have hpow : 10 ^ 39 ≤ 10 ^ k := Nat.pow_le_pow_right (by norm_num) hk
  have hpow' : 5 * 10 ^ 38 ≤ 5 * 10 ^ (k - 1) := Nat.mul_le_mul_left 5 (Nat.pow_le_pow_right (by norm_num) (by omega))
  rw [Nat.div_eq_of_lt h39, Nat.mod_eq_of_lt h39, Nat.div_eq_of_lt (h39.trans_le hpow),
    Nat.mod_eq_of_lt (h39.trans_le hpow)]
  unfold position
  split
  · rfl
  · simp only [if_pos (h38.trans_le hpow')]

/-- What `position` can answer, with the condition of each answer (44_round.md R98). -/
theorem position_cases (q r half : Nat) (t : TruncFlag) :
    (r = 0 ∧ t = .above ∧ position q r half t = (q - 1, .aboveHalf)) ∨
    (r = 0 ∧ t = .exact ∧ position q r half t = (q, .exact)) ∨
    (r = 0 ∧ t = .below ∧ position q r half t = (q, .belowHalf)) ∨
    (r ≠ 0 ∧ r < half ∧ position q r half t = (q, .belowHalf)) ∨
    (r ≠ 0 ∧ half < r ∧ position q r half t = (q, .aboveHalf)) ∨
    (r ≠ 0 ∧ r = half ∧ t = .exact ∧ position q r half t = (q, .half)) ∨
    (r ≠ 0 ∧ r = half ∧ t = .below ∧ position q r half t = (q, .aboveHalf)) ∨
    (r ≠ 0 ∧ r = half ∧ t = .above ∧ position q r half t = (q, .belowHalf)) := by
  unfold position
  rcases Nat.eq_zero_or_pos r with h0 | h0
  · cases t <;> simp [h0]
  · rcases Nat.lt_trichotomy r half with h | h | h
    · simp [h0.ne', h]
    · cases t <;> simp [h ▸ h0.ne', h]
    · simp [h0.ne', h, h.le.not_gt]

/-- When the kept significand is raised, mode by mode (44_round.md R99). -/
theorem increment_eq_true_iff (m : RoundMode) (p : Position) (q : Nat) (neg : Bool) :
    increment m p q neg = true ↔
      (m = .halfEven ∧ (p = .aboveHalf ∨ (p = .half ∧ q % 2 = 1))) ∨
      (m = .halfAway ∧ (p = .aboveHalf ∨ p = .half)) ∨
      (m = .towardPos ∧ p ≠ .exact ∧ neg = false) ∨ (m = .towardNeg ∧ p ≠ .exact ∧ neg = true) := by
  cases m <;> cases p <;> simp [increment]

/-- The rounded quotient is q + inc of the spec's closed form, with 10^k for every k ≥ 1 (44_round.md R98, R99). -/
theorem roundedQuotient_eq {s k : Nat} (h : s < 2 ^ 128) (m : RoundMode) (neg : Bool) (t : TruncFlag) :
    roundedQuotient m neg t s k =
      (position (s / 10 ^ k) (s % 10 ^ k) (5 * 10 ^ (k - 1)) t).1 +
        (increment m (position (s / 10 ^ k) (s % 10 ^ k) (5 * 10 ^ (k - 1)) t).2
          (position (s / 10 ^ k) (s % 10 ^ k) (5 * 10 ^ (k - 1)) t).1 neg).toNat := by
  unfold roundedQuotient
  by_cases hk : 39 ≤ k
  · simp only [Nat.min_eq_right hk, position_cap h hk t]
  · simp only [Nat.min_eq_left (by omega : k ≤ 39)]

/-- RND's check (3): BADVAL, or the flag's value under the conditions of R95 (44_round.md). -/
theorem rndFlag_cases (tf : TruncField) (opa : Word) (s : Nat) :
    ((tf = .reserved ∨ isSext32 opa = false ∨ (s = 0 ∧ tf = .above)) ∧ rndFlag tf opa s = .error .badval) ∨
    ∃ t, truncValue tf = some t ∧ isSext32 opa = true ∧ ¬(s = 0 ∧ t = .above) ∧ rndFlag tf opa s = .ok t := by
  unfold rndFlag
  cases tf <;> cases h : isSext32 opa <;> by_cases hs : s = 0 <;> simp [truncValue, hs]

/-- Nothing to drop: the three cases of R97 (44_round.md). -/
theorem reduce_of_dropCount_eq_zero {maxBexp : Nat} {m : RoundMode} {neg : Bool} {t : TruncFlag} {s : Nat} {e : Int}
    (h : dropCount s e = 0) :
    reduce maxBexp m neg t s e =
      if (s ≠ 0 ∧ (maxBexp : Int) < e) ∨ t = .exact then .ok (s, e) else .error .truncbug := by
  unfold reduce
  by_cases h1 : s ≠ 0 ∧ (maxBexp : Int) < e <;> by_cases h2 : t = .exact <;> simp [h, h1, h2]

/-- Something to drop: drop, round, renormalize (44_round.md R98 to R100). -/
theorem reduce_of_dropCount_ne_zero {maxBexp : Nat} {m : RoundMode} {neg : Bool} {t : TruncFlag} {s : Nat} {e : Int}
    (h : dropCount s e ≠ 0) :
    reduce maxBexp m neg t s e =
      .ok (renormalize (roundedQuotient m neg t s (dropCount s e)) (e + dropCount s e)) := by
  simp [reduce, h]

end Sys2Proof.Machine
end

