-- ==== Sys2Proof/Laws/Bodies.lean ====
section
/-! SUPPORT. For the body each command's meanings share, one lemma that says when it completes and with what, and when it
faults and with which cause; and the form of every meaning. -/

namespace Sys2Proof.Machine

/-! ### Data movement -/

theorem inswBody_cases (rd : WReg) (i : Nat) (s : State) :
    (s.wide rd = none ∧ inswBody rd i s = .error .empty) ∨
    (∃ x, s.wide rd = some x ∧ x.width.words ≤ i ∧ inswBody rd i s = .error .index) ∨
    ∃ x, s.wide rd = some x ∧ i < x.width.words ∧
      inswBody rd i s = .ok ((s.setWide rd x.width (replaceWord x.toNat i s.opa)).answer 0) := by
  unfold inswBody
  rcases s.reqWord_cases rd i with ⟨h, e⟩ | ⟨x, h, hw, e⟩ | ⟨x, h, hw, e⟩
  · exact .inl ⟨h, by simp [e]⟩
  · exact .inr (.inl ⟨x, h, hw, by simp [e]⟩)
  · exact .inr (.inr ⟨x, h, hw, by simp [e]⟩)

theorem rdwBody_cases (rs1 : WReg) (i : Nat) (s : State) :
    (s.wide rs1 = none ∧ rdwBody rs1 i s = .error .empty) ∨
    (∃ x, s.wide rs1 = some x ∧ x.width.words ≤ i ∧ rdwBody rs1 i s = .error .index) ∨
    ∃ x, s.wide rs1 = some x ∧ i < x.width.words ∧ rdwBody rs1 i s = .ok (s.answer (wordOf x.toNat i)) := by
  unfold rdwBody
  rcases s.reqWord_cases rs1 i with ⟨h, e⟩ | ⟨x, h, hw, e⟩ | ⟨x, h, hw, e⟩
  · exact .inl ⟨h, by simp [e]⟩
  · exact .inr (.inl ⟨x, h, hw, by simp [e]⟩)
  · exact .inr (.inr ⟨x, h, hw, by simp [e]⟩)

theorem widenBody_cases (w : Width) (rd rs1 : WReg) (s : State) :
    (s.wide rs1 = none ∧ widenBody w rd rs1 s = .error .empty) ∨
    (∃ x, s.wide rs1 = some x ∧ w.bits < x.width.bits ∧ widenBody w rd rs1 s = .error .width) ∨
    ∃ x, s.wide rs1 = some x ∧ x.width.bits ≤ w.bits ∧
      widenBody w rd rs1 s = .ok ((s.setWide rd w x.toNat).answer 0) := by
  unfold widenBody State.reqAny
  cases s.wide rs1 with
  | none => simp
  | some x => by_cases h : w.bits < x.width.bits <;> simp [h]; omega

theorem narrowBody_cases (w : Width) (rd rs1 : WReg) (s : State) :
    (s.wide rs1 = none ∧ narrowBody w rd rs1 s = .error .empty) ∨
    (∃ x, s.wide rs1 = some x ∧ x.width.bits < w.bits ∧ narrowBody w rd rs1 s = .error .width) ∨
    ∃ x, s.wide rs1 = some x ∧ w.bits ≤ x.width.bits ∧
      narrowBody w rd rs1 s = .ok (((s.setWide rd w x.toNat).setCarry (lostBits w x.toNat)).answer 0) := by
  unfold narrowBody State.reqAny
  cases s.wide rs1 with
  | none => simp
  | some x => by_cases h : x.width.bits < w.bits <;> simp [h]; omega

/-! ### Adder, multiplier, divider -/

theorem addBody_cases (w : Width) (rd rs1 rs2 : WReg) (s : State) :
    ((s.wide rs1 = none ∨ s.wide rs2 = none) ∧ addBody w rd rs1 rs2 s = .error .empty) ∨
    (∃ x y, s.wide rs1 = some x ∧ s.wide rs2 = some y ∧ ¬(x.width = w ∧ y.width = w) ∧
      addBody w rd rs1 rs2 s = .error .width) ∨
    ∃ x y, s.wide rs1 = some x ∧ s.wide rs2 = some y ∧ x.width = w ∧ y.width = w ∧
      addBody w rd rs1 rs2 s =
        .ok (((s.setWide rd w (x.toNat + y.toNat)).setCarry (lostBits w (x.toNat + y.toNat))).answer 0) := by
  unfold addBody
  rcases s.reqBoth_cases rs1 rs2 w with ⟨h, e⟩ | ⟨x, y, h1, h2, hw, e⟩ | ⟨x, y, h1, h2, h3, h4, e⟩
  · exact .inl ⟨h, by simp [e]⟩
  · exact .inr (.inl ⟨x, y, h1, h2, hw, by simp [e]⟩)
  · exact .inr (.inr ⟨x, y, h1, h2, h3, h4, by simp [e]⟩)

theorem mulBody_cases (w : Width) (rd rs1 : WReg) (s : State) :
    (s.wide rs1 = none ∧ mulBody w rd rs1 s = .error .empty) ∨
    (∃ x, s.wide rs1 = some x ∧ x.width ≠ w ∧ mulBody w rd rs1 s = .error .width) ∨
    ∃ x, s.wide rs1 = some x ∧ x.width = w ∧
      mulBody w rd rs1 s = .ok (((s.setWide rd w (x.toNat * s.opa.toNat)).setCarry
        (lostBits w (x.toNat * s.opa.toNat))).answer 0) := by
  unfold mulBody
  rcases s.req_cases rs1 w with ⟨h, e⟩ | ⟨x, h, hw, e⟩ | ⟨x, h, hw, e⟩
  · exact .inl ⟨h, by simp [e]⟩
  · exact .inr (.inl ⟨x, h, hw, by simp [e]⟩)
  · exact .inr (.inr ⟨x, h, hw, by simp [e]⟩)

theorem divcBody_cases (w : Width) (rd rs1 : WReg) (c : Divisor) (s : State) :
    (s.wide rs1 = none ∧ divcBody w rd rs1 c s = .error .empty) ∨
    (∃ x, s.wide rs1 = some x ∧ x.width ≠ w ∧ divcBody w rd rs1 c s = .error .width) ∨
    ∃ x, s.wide rs1 = some x ∧ x.width = w ∧
      divcBody w rd rs1 c s = .ok (((s.setWide rd w (x.toNat / divisorValue c)).setRem
        (BitVec.ofNat 64 (x.toNat % divisorValue c))).answer 0) := by
  unfold divcBody
  rcases s.req_cases rs1 w with ⟨h, e⟩ | ⟨x, h, hw, e⟩ | ⟨x, h, hw, e⟩
  · exact .inl ⟨h, by simp [e]⟩
  · exact .inr (.inl ⟨x, h, hw, by simp [e]⟩)
  · exact .inr (.inr ⟨x, h, hw, by simp [e]⟩)

/-- Every divisor is positive and below 2^64 (42_divide.md R75). -/
theorem divisorValue_pos (c : Divisor) : 0 < divisorValue c := by cases c <;> decide

theorem divisorValue_le (c : Divisor) : divisorValue c ≤ 10 ^ 19 := by cases c <;> decide

/-! ### Shifter and counter -/

/-- The two arms of the shift are the one formula (43_shift_clz.md R80). -/
theorem shiftLeft_eq (w : Width) (v n : Nat) : shiftLeft w v n = v * 2 ^ n % 2 ^ w.bits := by
  unfold shiftLeft
  split
  case isTrue h =>
    exact (Nat.mod_eq_zero_of_dvd (Dvd.dvd.mul_left (Nat.pow_dvd_pow 2 h) v)).symm
  case isFalse => rfl

theorem shiftBody_cases (w : Width) (rd rs1 : WReg) (n : Nat) (s : State) :
    (s.wide rs1 = none ∧ shiftBody w rd rs1 n s = .error .empty) ∨
    (∃ x, s.wide rs1 = some x ∧ x.width ≠ w ∧ shiftBody w rd rs1 n s = .error .width) ∨
    ∃ x, s.wide rs1 = some x ∧ x.width = w ∧
      shiftBody w rd rs1 n s = .ok ((s.setWide rd w (shiftLeft w x.toNat n)).answer 0) := by
  unfold shiftBody
  rcases s.req_cases rs1 w with ⟨h, e⟩ | ⟨x, h, hw, e⟩ | ⟨x, h, hw, e⟩
  · exact .inl ⟨h, by simp [e]⟩
  · exact .inr (.inl ⟨x, h, hw, by simp [e]⟩)
  · exact .inr (.inr ⟨x, h, hw, by simp [e]⟩)

theorem clzBody_cases (w : Width) (rs1 : WReg) (s : State) :
    (s.wide rs1 = none ∧ clzBody w rs1 s = .error .empty) ∨
    (∃ x, s.wide rs1 = some x ∧ x.width ≠ w ∧ clzBody w rs1 s = .error .width) ∨
    ∃ x, s.wide rs1 = some x ∧ x.width = w ∧
      clzBody w rs1 s = .ok (s.answer (BitVec.ofNat 64 (leadingZeros w.bits x.toNat))) := by
  unfold clzBody
  rcases s.req_cases rs1 w with ⟨h, e⟩ | ⟨x, h, hw, e⟩ | ⟨x, h, hw, e⟩
  · exact .inl ⟨h, by simp [e]⟩
  · exact .inr (.inl ⟨x, h, hw, by simp [e]⟩)
  · exact .inr (.inr ⟨x, h, hw, by simp [e]⟩)

theorem clztBody_cases (w : Width) (rs1 : WReg) (s : State) :
    (s.wide rs1 = none ∧ clztBody w rs1 s = .error .empty) ∨
    (∃ x, s.wide rs1 = some x ∧ x.width ≠ w ∧ clztBody w rs1 s = .error .width) ∨
    ∃ x, s.wide rs1 = some x ∧ x.width = w ∧
      clztBody w rs1 s =
        .ok (s.answer (BitVec.ofNat 64 (leadingZeros 64 (wordOf x.toNat (w.words - 1)).toNat))) := by
  unfold clztBody
  rcases s.req_cases rs1 w with ⟨h, e⟩ | ⟨x, h, hw, e⟩ | ⟨x, h, hw, e⟩
  · exact .inl ⟨h, by simp [e]⟩
  · exact .inr (.inl ⟨x, h, hw, by simp [e]⟩)
  · exact .inr (.inr ⟨x, h, hw, by simp [e]⟩)

/-- `leadingZeros` of a non-zero number names the place of its highest 1 bit. -/
theorem leadingZeros_of_ne_zero {bits v : Nat} (h : v ≠ 0) (hv : v < 2 ^ bits) :
    leadingZeros bits v < bits ∧ 2 ^ (bits - 1 - leadingZeros bits v) ≤ v ∧ v < 2 ^ (bits - leadingZeros bits v) := by
  have hlog : Nat.log2 v < bits := (Nat.log2_lt h).mpr hv
  have heq : leadingZeros bits v = bits - 1 - Nat.log2 v := by simp [leadingZeros, h]
  refine ⟨by omega, ?_, ?_⟩
  · rw [heq, show bits - 1 - (bits - 1 - Nat.log2 v) = Nat.log2 v by omega]
    exact Nat.log2_self_le h
  · rw [heq, show bits - (bits - 1 - Nat.log2 v) = Nat.log2 v + 1 by omega]
    exact Nat.lt_log2_self

/-! ### Rounding engine -/

theorem rndBody_cases (rd rs1 : WReg) (tf : TruncField) (neg : Bool) (s : State) :
    (s.wide rs1 = none ∧ rndBody rd rs1 tf neg s = .error .empty) ∨
    (∃ x, s.wide rs1 = some x ∧ x.width ≠ .w128 ∧ rndBody rd rs1 tf neg s = .error .width) ∨
    ∃ x, s.wide rs1 = some x ∧ x.width = .w128 ∧
      ((∃ c, rndFlag tf s.opa x.toNat = .error c ∧ rndBody rd rs1 tf neg s = .error c) ∨
       ∃ t, rndFlag tf s.opa x.toNat = .ok t ∧
        ((∃ c, reduce s.config.maxBexp.val s.rm neg t x.toNat (signed32 s.opa) = .error c ∧
            rndBody rd rs1 tf neg s = .error c) ∨
         ∃ q2 e2, reduce s.config.maxBexp.val s.rm neg t x.toNat (signed32 s.opa) = .ok (q2, e2) ∧
            rndBody rd rs1 tf neg s =
              .ok (((s.setWide rd .w128 q2).setRres (classify s.config.maxBexp.val neg q2 e2)).answer
                (classify s.config.maxBexp.val neg q2 e2).toWord))) := by
  unfold rndBody
  rcases s.req_cases rs1 .w128 with ⟨h, e⟩ | ⟨x, h, hw, e⟩ | ⟨x, h, hw, e⟩
  · exact .inl ⟨h, by simp [e]⟩
  · exact .inr (.inl ⟨x, h, hw, by simp [e]⟩)
  · refine .inr (.inr ⟨x, h, hw, ?_⟩)
    rw [e]
    cases hf : rndFlag tf s.opa x.toNat with
    | error c => exact .inl ⟨c, rfl, by simp [hf]⟩
    | ok t =>
      refine .inr ⟨t, rfl, ?_⟩
      cases hr : reduce s.config.maxBexp.val s.rm neg t x.toNat (signed32 s.opa) with
      | error c => exact .inl ⟨c, rfl, by simp [hf, hr]⟩
      | ok p => exact .inr ⟨p.1, p.2, rfl, by simp [hf, hr]⟩

/-! ### System commands -/

theorem rdsrBody_cases (sr : Nat) (s : State) :
    (5 ≤ sr ∧ rdsrBody sr s = .error .index) ∨
    ∃ v, sr < 5 ∧ s.specialWord sr = some v ∧ rdsrBody sr s = .ok (s.answer v) := by
  unfold rdsrBody State.specialWord
  rcases sr with _ | _ | _ | _ | _ | sr <;> simp

/-- The legal CTRL values are the mode numbers, and each names its mode (10_state.md R16). -/
theorem RoundMode.ofCode_eq_some_iff (c : BitVec 3) (m : RoundMode) : RoundMode.ofCode c = some m ↔ m.code = c := by
  revert c; cases m <;> decide

theorem wrsrBody_cases (sr : Nat) (s : State) :
    (sr ≠ 1 ∧ wrsrBody sr s = .error .index) ∨
    (sr = 1 ∧ (s.opa.extractLsb' 3 61 ≠ 0 ∨ RoundMode.ofCode (s.opa.extractLsb' 0 3) = none) ∧
      wrsrBody sr s = .error .badval) ∨
    ∃ m, sr = 1 ∧ s.opa.extractLsb' 3 61 = 0 ∧ RoundMode.ofCode (s.opa.extractLsb' 0 3) = some m ∧
      wrsrBody sr s = .ok ((s.setRm m).answer 0) := by
  unfold wrsrBody
  by_cases h : sr = 1
  · by_cases h3 : s.opa.extractLsb' 3 61 = 0
    · cases h0 : RoundMode.ofCode (s.opa.extractLsb' 0 3) <;> simp [h, h3]
    · exact .inr (.inl ⟨h, .inl h3, by rw [if_neg (by simp [h]), if_pos h3]⟩)
  · simp [h]

/-! ### Every meaning -/

theorem exec_setwAt (w : Width) (rd : WReg) (s : State) :
    exec (.setwAt w rd) s = s.settle (setwBody w rd s) := by cases w <;> rfl

theorem exec_widenAt (w : Width) (rd rs1 : WReg) (s : State) :
    exec (.widenAt w rd rs1) s = s.settle (widenBody w rd rs1 s) := by cases w <;> rfl

theorem exec_narrowAt (w : Width) (rd rs1 : WReg) (s : State) :
    exec (.narrowAt w rd rs1) s = s.settle (narrowBody w rd rs1 s) := by cases w <;> rfl

theorem exec_addAt (w : Width) (rd rs1 rs2 : WReg) (s : State) :
    exec (.addAt w rd rs1 rs2) s = s.settle (addBody w rd rs1 rs2 s) := by cases w <;> rfl

theorem exec_mulAt (w : Width) (rd rs1 : WReg) (s : State) :
    exec (.mulAt w rd rs1) s = s.settle (mulBody w rd rs1 s) := by cases w <;> rfl

theorem exec_divcAt (w : Width) (rd rs1 : WReg) (c : Divisor) (s : State) :
    exec (.divcAt w rd rs1 c) s = s.settle (divcBody w rd rs1 c s) := by cases w <;> rfl

theorem exec_shlAt (w : Width) (rd rs1 : WReg) (s : State) :
    exec (.shlAt w rd rs1) s = s.settle (shlBody w rd rs1 s) := by cases w <;> rfl

theorem exec_shliAt (w : Width) (rd rs1 : WReg) (n : Nat) (s : State) :
    exec (.shliAt w rd rs1 n) s = s.settle (shliBody w rd rs1 n s) := by cases w <;> rfl

theorem exec_clzAt (w : Width) (rs1 : WReg) (s : State) :
    exec (.clzAt w rs1) s = s.settle (clzBody w rs1 s) := by cases w <;> rfl

theorem exec_clztAt (w : Width) (rs1 : WReg) (s : State) :
    exec (.clztAt w rs1) s = s.settle (clztBody w rs1 s) := by cases w <;> rfl

theorem exec_insw (rd : WReg) (i : Nat) (s : State) :
    exec (.insw rd i) s = s.settle (inswBody rd i s) := rfl

theorem exec_rdw (rs1 : WReg) (i : Nat) (s : State) :
    exec (.rdw rs1 i) s = s.settle (rdwBody rs1 i s) := rfl

theorem exec_rnd (rd rs1 : WReg) (tf : TruncField) (neg : Bool) (s : State) :
    exec (.rnd rd rs1 tf neg) s = s.settle (rndBody rd rs1 tf neg s) := rfl

theorem exec_nop (s : State) :
    exec .nop s = s.settle (nopBody s) := rfl

theorem exec_rdsr (sr : Nat) (s : State) :
    exec (.rdsr sr) s = s.settle (rdsrBody sr s) := rfl

theorem exec_wrsr (sr : Nat) (s : State) :
    exec (.wrsr sr) s = s.settle (wrsrBody sr s) := rfl

theorem exec_clrst (m : BitVec 2) (s : State) :
    exec (.clrst m) s = s.settle (clrstBody m s) := rfl

/-- Every command is one of the ten typed commands at some width or one of the seven untyped ones. -/
theorem instr_shape (i : Instr) :
    (∃ w rd, i = .setwAt w rd) ∨ (∃ rd j, i = .insw rd j) ∨ (∃ rs j, i = .rdw rs j) ∨
    (∃ w rd rs, i = .widenAt w rd rs) ∨ (∃ w rd rs, i = .narrowAt w rd rs) ∨
    (∃ w rd rs rt, i = .addAt w rd rs rt) ∨ (∃ w rd rs, i = .mulAt w rd rs) ∨
    (∃ w rd rs c, i = .divcAt w rd rs c) ∨ (∃ w rd rs, i = .shlAt w rd rs) ∨
    (∃ w rd rs n, i = .shliAt w rd rs n) ∨ (∃ w rs, i = .clzAt w rs) ∨ (∃ w rs, i = .clztAt w rs) ∨
    (∃ rd rs tf neg, i = .rnd rd rs tf neg) ∨ i = .nop ∨ (∃ sr, i = .rdsr sr) ∨ (∃ sr, i = .wrsr sr) ∨
    ∃ m, i = .clrst m := by
  cases i
  case setw128 => exact .inl ⟨.w128, _, rfl⟩
  case setw192 => exact .inl ⟨.w192, _, rfl⟩
  case setw256 => exact .inl ⟨.w256, _, rfl⟩
  case insw => exact .inr (.inl ⟨_, _, rfl⟩)
  case rdw => exact .inr (.inr (.inl ⟨_, _, rfl⟩))
  case widen128 => exact .inr (.inr (.inr (.inl ⟨.w128, _, _, rfl⟩)))
  case widen192 => exact .inr (.inr (.inr (.inl ⟨.w192, _, _, rfl⟩)))
  case widen256 => exact .inr (.inr (.inr (.inl ⟨.w256, _, _, rfl⟩)))
  case narrow128 => exact .inr (.inr (.inr (.inr (.inl ⟨.w128, _, _, rfl⟩))))
  case narrow192 => exact .inr (.inr (.inr (.inr (.inl ⟨.w192, _, _, rfl⟩))))
  case narrow256 => exact .inr (.inr (.inr (.inr (.inl ⟨.w256, _, _, rfl⟩))))
  case add128 => exact .inr (.inr (.inr (.inr (.inr (.inl ⟨.w128, _, _, _, rfl⟩)))))
  case add192 => exact .inr (.inr (.inr (.inr (.inr (.inl ⟨.w192, _, _, _, rfl⟩)))))
  case add256 => exact .inr (.inr (.inr (.inr (.inr (.inl ⟨.w256, _, _, _, rfl⟩)))))
  case mul128 => exact .inr (.inr (.inr (.inr (.inr (.inr (.inl ⟨.w128, _, _, rfl⟩))))))
  case mul192 => exact .inr (.inr (.inr (.inr (.inr (.inr (.inl ⟨.w192, _, _, rfl⟩))))))
  case mul256 => exact .inr (.inr (.inr (.inr (.inr (.inr (.inl ⟨.w256, _, _, rfl⟩))))))
  case divc128 => exact .inr (.inr (.inr (.inr (.inr (.inr (.inr (.inl ⟨.w128, _, _, _, rfl⟩)))))))
  case divc192 => exact .inr (.inr (.inr (.inr (.inr (.inr (.inr (.inl ⟨.w192, _, _, _, rfl⟩)))))))
  case divc256 => exact .inr (.inr (.inr (.inr (.inr (.inr (.inr (.inl ⟨.w256, _, _, _, rfl⟩)))))))
  case shl128 => exact .inr (.inr (.inr (.inr (.inr (.inr (.inr (.inr (.inl ⟨.w128, _, _, rfl⟩))))))))
  case shl192 => exact .inr (.inr (.inr (.inr (.inr (.inr (.inr (.inr (.inl ⟨.w192, _, _, rfl⟩))))))))
  case shl256 => exact .inr (.inr (.inr (.inr (.inr (.inr (.inr (.inr (.inl ⟨.w256, _, _, rfl⟩))))))))
  case shli128 => exact .inr (.inr (.inr (.inr (.inr (.inr (.inr (.inr (.inr (.inl ⟨.w128, _, _, _, rfl⟩)))))))))
  case shli192 => exact .inr (.inr (.inr (.inr (.inr (.inr (.inr (.inr (.inr (.inl ⟨.w192, _, _, _, rfl⟩)))))))))
  case shli256 => exact .inr (.inr (.inr (.inr (.inr (.inr (.inr (.inr (.inr (.inl ⟨.w256, _, _, _, rfl⟩)))))))))
  case clz128 => exact .inr (.inr (.inr (.inr (.inr (.inr (.inr (.inr (.inr (.inr (.inl ⟨.w128, _, rfl⟩))))))))))
  case clz192 => exact .inr (.inr (.inr (.inr (.inr (.inr (.inr (.inr (.inr (.inr (.inl ⟨.w192, _, rfl⟩))))))))))
  case clz256 => exact .inr (.inr (.inr (.inr (.inr (.inr (.inr (.inr (.inr (.inr (.inl ⟨.w256, _, rfl⟩))))))))))
  case clzt128 => exact .inr (.inr (.inr (.inr (.inr (.inr (.inr (.inr (.inr (.inr (.inr (.inl ⟨.w128, _, rfl⟩)))))))))))
  case clzt192 => exact .inr (.inr (.inr (.inr (.inr (.inr (.inr (.inr (.inr (.inr (.inr (.inl ⟨.w192, _, rfl⟩)))))))))))
  case clzt256 => exact .inr (.inr (.inr (.inr (.inr (.inr (.inr (.inr (.inr (.inr (.inr (.inl ⟨.w256, _, rfl⟩)))))))))))
  case rnd => exact .inr (.inr (.inr (.inr (.inr (.inr (.inr (.inr (.inr (.inr (.inr (.inr (.inl ⟨_, _, _, _, rfl⟩))))))))))))
  case nop => exact .inr (.inr (.inr (.inr (.inr (.inr (.inr (.inr (.inr (.inr (.inr (.inr (.inr (.inl rfl)))))))))))))
  case rdsr => exact .inr (.inr (.inr (.inr (.inr (.inr (.inr (.inr (.inr (.inr (.inr (.inr (.inr (.inr (.inl ⟨_, rfl⟩))))))))))))))
  case wrsr => exact .inr (.inr (.inr (.inr (.inr (.inr (.inr (.inr (.inr (.inr (.inr (.inr (.inr (.inr (.inr (.inl ⟨_, rfl⟩)))))))))))))))
  case clrst => exact .inr (.inr (.inr (.inr (.inr (.inr (.inr (.inr (.inr (.inr (.inr (.inr (.inr (.inr (.inr (.inr (⟨_, rfl⟩))))))))))))))))

/-- Every meaning ends a body: the command completes with the state its rule gives, or is squashed. -/
theorem exec_eq_settle (i : Instr) (s : State) : ∃ b : Except Cause State, exec i s = s.settle b := by
  rcases instr_shape i with ⟨w, rd, rfl⟩ | ⟨rd, j, rfl⟩ | ⟨rs, j, rfl⟩ | ⟨w, rd, rs, rfl⟩ | ⟨w, rd, rs, rfl⟩ |
    ⟨w, rd, rs, rt, rfl⟩ | ⟨w, rd, rs, rfl⟩ | ⟨w, rd, rs, c, rfl⟩ | ⟨w, rd, rs, rfl⟩ | ⟨w, rd, rs, n, rfl⟩ |
    ⟨w, rs, rfl⟩ | ⟨w, rs, rfl⟩ | ⟨rd, rs, tf, neg, rfl⟩ | rfl | ⟨sr, rfl⟩ | ⟨sr, rfl⟩ | ⟨m, rfl⟩
  · exact ⟨_, exec_setwAt w rd s⟩
  · exact ⟨_, exec_insw rd j s⟩
  · exact ⟨_, exec_rdw rs j s⟩
  · exact ⟨_, exec_widenAt w rd rs s⟩
  · exact ⟨_, exec_narrowAt w rd rs s⟩
  · exact ⟨_, exec_addAt w rd rs rt s⟩
  · exact ⟨_, exec_mulAt w rd rs s⟩
  · exact ⟨_, exec_divcAt w rd rs c s⟩
  · exact ⟨_, exec_shlAt w rd rs s⟩
  · exact ⟨_, exec_shliAt w rd rs n s⟩
  · exact ⟨_, exec_clzAt w rs s⟩
  · exact ⟨_, exec_clztAt w rs s⟩
  · exact ⟨_, exec_rnd rd rs tf neg s⟩
  · exact ⟨_, exec_nop s⟩
  · exact ⟨_, exec_rdsr sr s⟩
  · exact ⟨_, exec_wrsr sr s⟩
  · exact ⟨_, exec_clrst m s⟩

end Sys2Proof.Machine
end

