-- ==== Sys2Proof/Laws/Decode.lean ====
section
/-! SUPPORT. The fields of a command word and the word of its fields, and the opcode table's masks over fields. -/

namespace Sys2Proof

/-- The fields of a word made from fields are those fields. -/
@[simp] theorem Fields.ofWord_toWord (f : Fields) : Fields.ofWord f.toWord = f := by
  obtain ⟨op, ws, rd, rs1, rs2, z, imm⟩ := f
  simp only [Fields.ofWord, Fields.toWord, Fields.mk.injEq]
  refine ⟨?_, ?_, ?_, ?_, ?_, ?_, ?_⟩ <;>
  · apply BitVec.eq_of_getLsbD_eq
    intro i hi
    simp only [BitVec.getLsbD_extractLsb', BitVec.getLsbD_append]
    interval_cases i <;> simp

/-- The word made from a word's fields is that word. -/
@[simp] theorem Fields.toWord_ofWord (w : CmdWord) : (Fields.ofWord w).toWord = w := by
  apply BitVec.eq_of_getLsbD_eq
  intro i hi
  simp only [Fields.toWord, Fields.ofWord, BitVec.getLsbD_append, BitVec.getLsbD_extractLsb']
  interval_cases i <;> simp

/-- Different fields make different words. -/
theorem Fields.toWord_injective {f g : Fields} (h : f.toWord = g.toWord) : f = g := by
  rw [← Fields.ofWord_toWord f, h, Fields.ofWord_toWord]

/-- The field-wise conjunction of two words' fields. -/
def Fields.and (f g : Fields) : Fields :=
  ⟨f.op &&& g.op, f.ws &&& g.ws, f.rd &&& g.rd, f.rs1 &&& g.rs1, f.rs2 &&& g.rs2, f.z &&& g.z, f.imm &&& g.imm⟩

/-- Masking a word masks its fields. -/
theorem Fields.toWord_and (f g : Fields) : f.toWord &&& g.toWord = (f.and g).toWord := by
  apply BitVec.eq_of_getLsbD_eq
  intro i hi
  simp only [Fields.toWord, Fields.and, BitVec.getLsbD_append, BitVec.getLsbD_and]
  interval_cases i <;> simp

/-- Whether a row selects a word, by the fields of mask, pattern and word. -/
theorem OpcodeRow.selects_toWord (r : OpcodeRow) (f : Fields) :
    r.selects f.toWord = true ↔ f.and (Fields.ofWord r.mask) = Fields.ofWord r.pattern := by
  have hm := Fields.toWord_and f (Fields.ofWord r.mask)
  rw [Fields.toWord_ofWord] at hm
  rw [OpcodeRow.selects, beq_iff_eq, hm]
  constructor
  · intro h
    exact Fields.toWord_injective (by rw [h, Fields.toWord_ofWord])
  · intro h
    rw [h, Fields.toWord_ofWord]

/-- The decoder on the word of some fields is the decoder over those fields. -/
@[simp] theorem decode_toWord (f : Fields) : decode f.toWord = f.decode := by simp [decode]

/-- A decoder row accepts exactly the words whose must-be-zero bits are zero, with its own instruction. -/
theorem Fields.row_ok_iff {f : Fields} {a b c : Bool} {n : Nat} {i j : Instr} :
    f.row a b c n i = .ok j ↔ f.clean a b c n = true ∧ i = j := by
  unfold Fields.row
  by_cases h : f.clean a b c n = true <;> simp [h]

@[simp] theorem Divisor.ofCode_code (c : Divisor) : Divisor.ofCode c.code = c := by cases c <;> rfl

@[simp] theorem TruncField.ofCode_code (t : TruncField) : TruncField.ofCode t.code = t := by cases t <;> rfl

@[simp] theorem Divisor.code_ofCode (c : BitVec 2) : (Divisor.ofCode c).code = c := by
  revert c; decide

@[simp] theorem TruncField.code_ofCode (c : BitVec 2) : (TruncField.ofCode c).code = c := by
  revert c; decide

end Sys2Proof
end

