-- ==== Sys2Proof/Laws/Effect.lean ====
section
/-! SUPPORT. Everything a command can do, once for all commands: the inversion lemma of `exec`. -/

namespace Sys2Proof.Machine

/-- The states command `i` can leave when run in `s`, each with what it says about `i`. -/
inductive Effect (i : Instr) (s : State) : State → Prop where
  /-- The command faulted. -/
  | fault (c : Cause) : Effect i s (s.raise c)
  /-- SETW, INSW, WIDEN, SHL, SHLI: a wide register is written. -/
  | write (rd : WReg) (w : Width) (n : Nat) (hd : i.dest = some rd) (hc : i.writesCarry = false)
      (hv : i.isDivc = false) (hr : i.isRnd = false) (ho : i.isRead = false) :
      Effect i s ((s.setWide rd w n).answer 0)
  /-- NARROW, ADD, MUL: a wide register and the carry flags are written. -/
  | writeCarry (rd : WReg) (w : Width) (n : Nat) (hd : i.dest = some rd) (hc : i.writesCarry = true)
      (hv : i.isDivc = false) (hr : i.isRnd = false) (ho : i.isRead = false) :
      Effect i s (((s.setWide rd w n).setCarry (lostBits w n)).answer 0)
  /-- DIVC: a wide register and REM are written. -/
  | divide (rd : WReg) (w : Width) (n : Nat) (c : Divisor) (hd : i.dest = some rd) (hc : i.writesCarry = false)
      (hv : i.isDivc = true) (hr : i.isRnd = false) (ho : i.isRead = false) :
      Effect i s (((s.setWide rd w (n / divisorValue c)).setRem (BitVec.ofNat 64 (n % divisorValue c))).answer 0)
  /-- RDW, CLZ, CLZT, RDSR, NOP: only an answer. -/
  | answer (v : Word) (hd : i.dest = none) (hc : i.writesCarry = false) (hv : i.isDivc = false)
      (hr : i.isRnd = false) : Effect i s (s.answer v)
  /-- RND: a wide register and RRES are written. -/
  | round (rd rs1 : WReg) (tf : TruncField) (neg : Bool) (x : Wide) (t : TruncFlag) (q2 : Nat) (e2 : Int)
      (hi : i = .rnd rd rs1 tf neg) (hx : s.wide rs1 = some x) (hw : x.width = .w128)
      (hf : rndFlag tf s.opa x.toNat = .ok t)
      (hq : reduce s.config.maxBexp.val s.rm neg t x.toNat (signed32 s.opa) = .ok (q2, e2)) :
      Effect i s (((s.setWide rd .w128 q2).setRres (classify s.config.maxBexp.val neg q2 e2)).answer
        (classify s.config.maxBexp.val neg q2 e2).toWord)
  /-- WRSR 1: CTRL is written. -/
  | mode (m : RoundMode) (hi : i = .wrsr 1) : Effect i s ((s.setRm m).answer 0)
  /-- CLRST: the bits its mask names are cleared. -/
  | clear (m : BitVec 2) (hi : i = .clrst m) (t : State)
      (ht : t = if m.getLsbD 0 then s.clearFault else s) (u : State) (hu : u = if m.getLsbD 1 then t.clearOvs else t) :
      Effect i s (u.answer 0)

/-- A body whose fault-free outcome is an effect makes an effect. -/
theorem Effect.of_settle {i : Instr} {s t : State} {b : Except Cause State} (h : s.settle b = .next t)
    (hb : ∀ u, b = .ok u → Effect i s u) : Effect i s t := by
  cases b with
  | ok u => cases h; exact hb _ rfl
  | error c => cases h; exact .fault c

/-- What a command leaves is one of its effects. -/
theorem exec_effect {i : Instr} {s t : State} (h : exec i s = .next t) : Effect i s t := by
  rcases instr_shape i with ⟨w, rd, rfl⟩ | ⟨rd, j, rfl⟩ | ⟨rs, j, rfl⟩ | ⟨w, rd, rs, rfl⟩ | ⟨w, rd, rs, rfl⟩ |
    ⟨w, rd, rs, rt, rfl⟩ | ⟨w, rd, rs, rfl⟩ | ⟨w, rd, rs, c, rfl⟩ | ⟨w, rd, rs, rfl⟩ | ⟨w, rd, rs, n, rfl⟩ |
    ⟨w, rs, rfl⟩ | ⟨w, rs, rfl⟩ | ⟨rd, rs, tf, neg, rfl⟩ | rfl | ⟨sr, rfl⟩ | ⟨sr, rfl⟩ | ⟨m, rfl⟩
  · rw [exec_setwAt] at h
    refine .of_settle h fun u hu => ?_
    simp only [setwBody, Except.ok.injEq] at hu
    subst hu
    cases w <;> exact .write _ _ _ rfl rfl rfl rfl rfl
  · rw [exec_insw] at h
    refine .of_settle h fun u hu => ?_
    rcases inswBody_cases rd j s with ⟨_, e⟩ | ⟨x, _, _, e⟩ | ⟨x, _, _, e⟩ <;> rw [hu] at e <;> cases e
    exact .write _ _ _ rfl rfl rfl rfl rfl
  · rw [exec_rdw] at h
    refine .of_settle h fun u hu => ?_
    rcases rdwBody_cases rs j s with ⟨_, e⟩ | ⟨x, _, _, e⟩ | ⟨x, _, _, e⟩ <;> rw [hu] at e <;> cases e
    exact .answer _ rfl rfl rfl rfl
  · rw [exec_widenAt] at h
    refine .of_settle h fun u hu => ?_
    rcases widenBody_cases w rd rs s with ⟨_, e⟩ | ⟨x, _, _, e⟩ | ⟨x, _, _, e⟩ <;> rw [hu] at e <;> cases e
    cases w <;> exact .write _ _ _ rfl rfl rfl rfl rfl
  · rw [exec_narrowAt] at h
    refine .of_settle h fun u hu => ?_
    rcases narrowBody_cases w rd rs s with ⟨_, e⟩ | ⟨x, _, _, e⟩ | ⟨x, _, _, e⟩ <;> rw [hu] at e <;> cases e
    cases w <;> exact .writeCarry _ _ _ rfl rfl rfl rfl rfl
  · rw [exec_addAt] at h
    refine .of_settle h fun u hu => ?_
    rcases addBody_cases w rd rs rt s with ⟨_, e⟩ | ⟨x, y, _, _, _, e⟩ | ⟨x, y, _, _, _, _, e⟩ <;>
      rw [hu] at e <;> cases e
    cases w <;> exact .writeCarry _ _ _ rfl rfl rfl rfl rfl
  · rw [exec_mulAt] at h
    refine .of_settle h fun u hu => ?_
    rcases mulBody_cases w rd rs s with ⟨_, e⟩ | ⟨x, _, _, e⟩ | ⟨x, _, _, e⟩ <;> rw [hu] at e <;> cases e
    cases w <;> exact .writeCarry _ _ _ rfl rfl rfl rfl rfl
  · rw [exec_divcAt] at h
    refine .of_settle h fun u hu => ?_
    rcases divcBody_cases w rd rs c s with ⟨_, e⟩ | ⟨x, _, _, e⟩ | ⟨x, _, _, e⟩ <;> rw [hu] at e <;> cases e
    cases w <;> exact .divide _ _ _ _ rfl rfl rfl rfl rfl
  · rw [exec_shlAt, shlBody] at h
    refine .of_settle h fun u hu => ?_
    rcases shiftBody_cases w rd rs s.opa.toNat s with ⟨_, e⟩ | ⟨x, _, _, e⟩ | ⟨x, _, _, e⟩ <;>
      rw [hu] at e <;> cases e
    cases w <;> exact .write _ _ _ rfl rfl rfl rfl rfl
  · rw [exec_shliAt, shliBody] at h
    refine .of_settle h fun u hu => ?_
    rcases shiftBody_cases w rd rs n s with ⟨_, e⟩ | ⟨x, _, _, e⟩ | ⟨x, _, _, e⟩ <;> rw [hu] at e <;> cases e
    cases w <;> exact .write _ _ _ rfl rfl rfl rfl rfl
  · rw [exec_clzAt] at h
    refine .of_settle h fun u hu => ?_
    rcases clzBody_cases w rs s with ⟨_, e⟩ | ⟨x, _, _, e⟩ | ⟨x, _, _, e⟩ <;> rw [hu] at e <;> cases e
    cases w <;> exact .answer _ rfl rfl rfl rfl
  · rw [exec_clztAt] at h
    refine .of_settle h fun u hu => ?_
    rcases clztBody_cases w rs s with ⟨_, e⟩ | ⟨x, _, _, e⟩ | ⟨x, _, _, e⟩ <;> rw [hu] at e <;> cases e
    cases w <;> exact .answer _ rfl rfl rfl rfl
  · rw [exec_rnd] at h
    refine .of_settle h fun u hu => ?_
    rcases rndBody_cases rd rs tf neg s with
      ⟨_, e⟩ | ⟨x, _, _, e⟩ | ⟨x, h1, h2, ⟨c, _, e⟩ | ⟨t, h3, ⟨c, _, e⟩ | ⟨q2, e2, h4, e⟩⟩⟩ <;>
      rw [hu] at e <;> cases e
    exact .round _ _ _ _ _ _ _ _ rfl h1 h2 h3 h4
  · cases h
    exact .answer _ rfl rfl rfl rfl
  · rw [exec_rdsr] at h
    refine .of_settle h fun u hu => ?_
    rcases rdsrBody_cases sr s with ⟨_, e⟩ | ⟨x, _, _, e⟩ <;> rw [hu] at e <;> cases e
    exact .answer _ rfl rfl rfl rfl
  · rw [exec_wrsr] at h
    refine .of_settle h fun u hu => ?_
    rcases wrsrBody_cases sr s with ⟨_, e⟩ | ⟨_, _, e⟩ | ⟨m, hs, _, _, e⟩ <;> rw [hu] at e <;> cases e
    exact .mode _ (by rw [hs])
  · cases h
    exact .clear _ rfl _ rfl _ rfl

/-- Every command leaves the port's offers, the operand and MAX_BEXP alone. -/
theorem Effect.samePort {i : Instr} {s t : State} (h : Effect i s t) : SamePort s t := by
  cases h
  case clear ht u hu =>
    subst ht hu
    refine ⟨?_, ?_, ?_⟩ <;> (simp only [State.answer_config, State.answer_cmds, State.answer_opa]; split <;> split <;> rfl)
  all_goals exact ⟨rfl, rfl, rfl⟩

/-- Every command answers, and its response is well formed. -/
theorem Effect.rsp {i : Instr} {s t : State} (h : Effect i s t) : ∃ r, t.rsp = some r ∧ r.WellFormed := by
  cases h
  case fault c => exact ⟨_, rfl, by cases c <;> decide⟩
  all_goals exact ⟨_, rfl, fun _ => rfl, fun h => by cases h⟩

/-- Every command has a next state. -/
theorem exec_next (i : Instr) (s : State) : ∃ t, exec i s = .next t := by
  obtain ⟨b, hb⟩ := exec_eq_settle i s
  rcases s.settle_cases b with ⟨t, _, h⟩ | ⟨c, _, h⟩ <;> exact ⟨_, hb.trans h⟩

end Sys2Proof.Machine
end

