-- ==== Sys2Proof/Laws/PerInstr.lean ====
section
/-! SUPPORT. Facts about every instruction as syntax, one lemma per constructor: the word an instruction encodes to is
selected by the row of the opcode table with its mnemonic (30_encoding.md R50). -/

namespace Sys2Proof.Laws.EncodeMatchesRow

/-- The encoder agrees with the opcode table's mask and pattern of the instruction's own row. -/
def Statement (i : Instr) : Prop :=
  i.WellFormed → ∃ row ∈ opcodeTable, row.mnemonic = i.mnemonic ∧ row.selects (encode i) = true

theorem setw128 (rd : WReg) : Statement (.setw128 rd) := by
  intro _
  refine ⟨⟨"SETW.128", 0x01400000#32, 0xFFC7FFFF#32⟩, by simp [opcodeTable], rfl, ?_⟩
  rw [encode, OpcodeRow.selects_toWord]
  simp [Instr.fields, Fields.and, Fields.ofWord]

theorem setw192 (rd : WReg) : Statement (.setw192 rd) := by
  intro _
  refine ⟨⟨"SETW.192", 0x01800000#32, 0xFFC7FFFF#32⟩, by simp [opcodeTable], rfl, ?_⟩
  rw [encode, OpcodeRow.selects_toWord]
  simp [Instr.fields, Fields.and, Fields.ofWord]

theorem setw256 (rd : WReg) : Statement (.setw256 rd) := by
  intro _
  refine ⟨⟨"SETW.256", 0x01C00000#32, 0xFFC7FFFF#32⟩, by simp [opcodeTable], rfl, ?_⟩
  rw [encode, OpcodeRow.selects_toWord]
  simp [Instr.fields, Fields.and, Fields.ofWord]

theorem insw (rd : WReg) (i : Nat) : Statement (.insw rd i) := by
  intro h
  refine ⟨⟨"INSW", 0x02000000#32, 0xFFC7FFFC#32⟩, by simp [opcodeTable], rfl, ?_⟩
  have hi : i < 4 := of_decide_eq_true h
  rw [encode, OpcodeRow.selects_toWord]
  interval_cases i <;> simp [Instr.fields, Fields.and, Fields.ofWord]

theorem rdw (rs1 : WReg) (i : Nat) : Statement (.rdw rs1 i) := by
  intro h
  refine ⟨⟨"RDW", 0x03000000#32, 0xFFF8FFFC#32⟩, by simp [opcodeTable], rfl, ?_⟩
  have hi : i < 4 := of_decide_eq_true h
  rw [encode, OpcodeRow.selects_toWord]
  interval_cases i <;> simp [Instr.fields, Fields.and, Fields.ofWord]

theorem widen128 (rd rs1 : WReg) : Statement (.widen128 rd rs1) := by
  intro _
  refine ⟨⟨"WIDEN.128", 0x04400000#32, 0xFFC0FFFF#32⟩, by simp [opcodeTable], rfl, ?_⟩
  rw [encode, OpcodeRow.selects_toWord]
  simp [Instr.fields, Fields.and, Fields.ofWord]

theorem widen192 (rd rs1 : WReg) : Statement (.widen192 rd rs1) := by
  intro _
  refine ⟨⟨"WIDEN.192", 0x04800000#32, 0xFFC0FFFF#32⟩, by simp [opcodeTable], rfl, ?_⟩
  rw [encode, OpcodeRow.selects_toWord]
  simp [Instr.fields, Fields.and, Fields.ofWord]

theorem widen256 (rd rs1 : WReg) : Statement (.widen256 rd rs1) := by
  intro _
  refine ⟨⟨"WIDEN.256", 0x04C00000#32, 0xFFC0FFFF#32⟩, by simp [opcodeTable], rfl, ?_⟩
  rw [encode, OpcodeRow.selects_toWord]
  simp [Instr.fields, Fields.and, Fields.ofWord]

theorem narrow128 (rd rs1 : WReg) : Statement (.narrow128 rd rs1) := by
  intro _
  refine ⟨⟨"NARROW.128", 0x05400000#32, 0xFFC0FFFF#32⟩, by simp [opcodeTable], rfl, ?_⟩
  rw [encode, OpcodeRow.selects_toWord]
  simp [Instr.fields, Fields.and, Fields.ofWord]

theorem narrow192 (rd rs1 : WReg) : Statement (.narrow192 rd rs1) := by
  intro _
  refine ⟨⟨"NARROW.192", 0x05800000#32, 0xFFC0FFFF#32⟩, by simp [opcodeTable], rfl, ?_⟩
  rw [encode, OpcodeRow.selects_toWord]
  simp [Instr.fields, Fields.and, Fields.ofWord]

theorem narrow256 (rd rs1 : WReg) : Statement (.narrow256 rd rs1) := by
  intro _
  refine ⟨⟨"NARROW.256", 0x05C00000#32, 0xFFC0FFFF#32⟩, by simp [opcodeTable], rfl, ?_⟩
  rw [encode, OpcodeRow.selects_toWord]
  simp [Instr.fields, Fields.and, Fields.ofWord]

theorem add128 (rd rs1 rs2 : WReg) : Statement (.add128 rd rs1 rs2) := by
  intro _
  refine ⟨⟨"ADD.128", 0x10400000#32, 0xFFC01FFF#32⟩, by simp [opcodeTable], rfl, ?_⟩
  rw [encode, OpcodeRow.selects_toWord]
  simp [Instr.fields, Fields.and, Fields.ofWord]

theorem add192 (rd rs1 rs2 : WReg) : Statement (.add192 rd rs1 rs2) := by
  intro _
  refine ⟨⟨"ADD.192", 0x10800000#32, 0xFFC01FFF#32⟩, by simp [opcodeTable], rfl, ?_⟩
  rw [encode, OpcodeRow.selects_toWord]
  simp [Instr.fields, Fields.and, Fields.ofWord]

theorem add256 (rd rs1 rs2 : WReg) : Statement (.add256 rd rs1 rs2) := by
  intro _
  refine ⟨⟨"ADD.256", 0x10C00000#32, 0xFFC01FFF#32⟩, by simp [opcodeTable], rfl, ?_⟩
  rw [encode, OpcodeRow.selects_toWord]
  simp [Instr.fields, Fields.and, Fields.ofWord]

theorem mul128 (rd rs1 : WReg) : Statement (.mul128 rd rs1) := by
  intro _
  refine ⟨⟨"MUL.128", 0x11400000#32, 0xFFC0FFFF#32⟩, by simp [opcodeTable], rfl, ?_⟩
  rw [encode, OpcodeRow.selects_toWord]
  simp [Instr.fields, Fields.and, Fields.ofWord]

theorem mul192 (rd rs1 : WReg) : Statement (.mul192 rd rs1) := by
  intro _
  refine ⟨⟨"MUL.192", 0x11800000#32, 0xFFC0FFFF#32⟩, by simp [opcodeTable], rfl, ?_⟩
  rw [encode, OpcodeRow.selects_toWord]
  simp [Instr.fields, Fields.and, Fields.ofWord]

theorem mul256 (rd rs1 : WReg) : Statement (.mul256 rd rs1) := by
  intro _
  refine ⟨⟨"MUL.256", 0x11C00000#32, 0xFFC0FFFF#32⟩, by simp [opcodeTable], rfl, ?_⟩
  rw [encode, OpcodeRow.selects_toWord]
  simp [Instr.fields, Fields.and, Fields.ofWord]

theorem divc128 (rd rs1 : WReg) (c : Divisor) : Statement (.divc128 rd rs1 c) := by
  intro _
  refine ⟨⟨"DIVC.128", 0x12400000#32, 0xFFC0FFFC#32⟩, by simp [opcodeTable], rfl, ?_⟩
  rw [encode, OpcodeRow.selects_toWord]
  cases c <;> simp [Instr.fields, Fields.and, Fields.ofWord, Divisor.code]

theorem divc192 (rd rs1 : WReg) (c : Divisor) : Statement (.divc192 rd rs1 c) := by
  intro _
  refine ⟨⟨"DIVC.192", 0x12800000#32, 0xFFC0FFFC#32⟩, by simp [opcodeTable], rfl, ?_⟩
  rw [encode, OpcodeRow.selects_toWord]
  cases c <;> simp [Instr.fields, Fields.and, Fields.ofWord, Divisor.code]

theorem divc256 (rd rs1 : WReg) (c : Divisor) : Statement (.divc256 rd rs1 c) := by
  intro _
  refine ⟨⟨"DIVC.256", 0x12C00000#32, 0xFFC0FFFC#32⟩, by simp [opcodeTable], rfl, ?_⟩
  rw [encode, OpcodeRow.selects_toWord]
  cases c <;> simp [Instr.fields, Fields.and, Fields.ofWord, Divisor.code]

theorem shl128 (rd rs1 : WReg) : Statement (.shl128 rd rs1) := by
  intro _
  refine ⟨⟨"SHL.128", 0x18400000#32, 0xFFC0FFFF#32⟩, by simp [opcodeTable], rfl, ?_⟩
  rw [encode, OpcodeRow.selects_toWord]
  simp [Instr.fields, Fields.and, Fields.ofWord]

theorem shl192 (rd rs1 : WReg) : Statement (.shl192 rd rs1) := by
  intro _
  refine ⟨⟨"SHL.192", 0x18800000#32, 0xFFC0FFFF#32⟩, by simp [opcodeTable], rfl, ?_⟩
  rw [encode, OpcodeRow.selects_toWord]
  simp [Instr.fields, Fields.and, Fields.ofWord]

theorem shl256 (rd rs1 : WReg) : Statement (.shl256 rd rs1) := by
  intro _
  refine ⟨⟨"SHL.256", 0x18C00000#32, 0xFFC0FFFF#32⟩, by simp [opcodeTable], rfl, ?_⟩
  rw [encode, OpcodeRow.selects_toWord]
  simp [Instr.fields, Fields.and, Fields.ofWord]

theorem shli128 (rd rs1 : WReg) (n : Nat) : Statement (.shli128 rd rs1 n) := by
  intro _
  refine ⟨⟨"SHLI.128", 0x19400000#32, 0xFFC0FC00#32⟩, by simp [opcodeTable], rfl, ?_⟩
  rw [encode, OpcodeRow.selects_toWord]
  simp [Instr.fields, Fields.and, Fields.ofWord]

theorem shli192 (rd rs1 : WReg) (n : Nat) : Statement (.shli192 rd rs1 n) := by
  intro _
  refine ⟨⟨"SHLI.192", 0x19800000#32, 0xFFC0FC00#32⟩, by simp [opcodeTable], rfl, ?_⟩
  rw [encode, OpcodeRow.selects_toWord]
  simp [Instr.fields, Fields.and, Fields.ofWord]

theorem shli256 (rd rs1 : WReg) (n : Nat) : Statement (.shli256 rd rs1 n) := by
  intro _
  refine ⟨⟨"SHLI.256", 0x19C00000#32, 0xFFC0FC00#32⟩, by simp [opcodeTable], rfl, ?_⟩
  rw [encode, OpcodeRow.selects_toWord]
  simp [Instr.fields, Fields.and, Fields.ofWord]

theorem clz128 (rs1 : WReg) : Statement (.clz128 rs1) := by
  intro _
  refine ⟨⟨"CLZ.128", 0x1A400000#32, 0xFFF8FFFF#32⟩, by simp [opcodeTable], rfl, ?_⟩
  rw [encode, OpcodeRow.selects_toWord]
  simp [Instr.fields, Fields.and, Fields.ofWord]

theorem clz192 (rs1 : WReg) : Statement (.clz192 rs1) := by
  intro _
  refine ⟨⟨"CLZ.192", 0x1A800000#32, 0xFFF8FFFF#32⟩, by simp [opcodeTable], rfl, ?_⟩
  rw [encode, OpcodeRow.selects_toWord]
  simp [Instr.fields, Fields.and, Fields.ofWord]

theorem clz256 (rs1 : WReg) : Statement (.clz256 rs1) := by
  intro _
  refine ⟨⟨"CLZ.256", 0x1AC00000#32, 0xFFF8FFFF#32⟩, by simp [opcodeTable], rfl, ?_⟩
  rw [encode, OpcodeRow.selects_toWord]
  simp [Instr.fields, Fields.and, Fields.ofWord]

theorem clzt128 (rs1 : WReg) : Statement (.clzt128 rs1) := by
  intro _
  refine ⟨⟨"CLZT.128", 0x1B400000#32, 0xFFF8FFFF#32⟩, by simp [opcodeTable], rfl, ?_⟩
  rw [encode, OpcodeRow.selects_toWord]
  simp [Instr.fields, Fields.and, Fields.ofWord]

theorem clzt192 (rs1 : WReg) : Statement (.clzt192 rs1) := by
  intro _
  refine ⟨⟨"CLZT.192", 0x1B800000#32, 0xFFF8FFFF#32⟩, by simp [opcodeTable], rfl, ?_⟩
  rw [encode, OpcodeRow.selects_toWord]
  simp [Instr.fields, Fields.and, Fields.ofWord]

theorem clzt256 (rs1 : WReg) : Statement (.clzt256 rs1) := by
  intro _
  refine ⟨⟨"CLZT.256", 0x1BC00000#32, 0xFFF8FFFF#32⟩, by simp [opcodeTable], rfl, ?_⟩
  rw [encode, OpcodeRow.selects_toWord]
  simp [Instr.fields, Fields.and, Fields.ofWord]

theorem rnd (rd rs1 : WReg) (tf : TruncField) (neg : Bool) : Statement (.rnd rd rs1 tf neg) := by
  intro _
  refine ⟨⟨"RND", 0x20400000#32, 0xFFC0FFF8#32⟩, by simp [opcodeTable], rfl, ?_⟩
  rw [encode, OpcodeRow.selects_toWord]
  cases tf <;> cases neg <;> simp [Instr.fields, Fields.and, Fields.ofWord, TruncField.code]

theorem nop : Statement .nop := by
  intro _
  refine ⟨⟨"NOP", 0x30000000#32, 0xFFFFFFFF#32⟩, by simp [opcodeTable], rfl, ?_⟩
  rw [encode, OpcodeRow.selects_toWord]
  simp [Instr.fields, Fields.and, Fields.ofWord]

theorem rdsr (sr : Nat) : Statement (.rdsr sr) := by
  intro h
  refine ⟨⟨"RDSR", 0x31000000#32, 0xFFFFFFF0#32⟩, by simp [opcodeTable], rfl, ?_⟩
  have hi : sr < 16 := of_decide_eq_true h
  rw [encode, OpcodeRow.selects_toWord]
  interval_cases sr <;> simp [Instr.fields, Fields.and, Fields.ofWord]

theorem wrsr (sr : Nat) : Statement (.wrsr sr) := by
  intro h
  refine ⟨⟨"WRSR", 0x32000000#32, 0xFFFFFFF0#32⟩, by simp [opcodeTable], rfl, ?_⟩
  have hi : sr < 16 := of_decide_eq_true h
  rw [encode, OpcodeRow.selects_toWord]
  interval_cases sr <;> simp [Instr.fields, Fields.and, Fields.ofWord]

theorem clrst (m : BitVec 2) : Statement (.clrst m) := by
  intro _
  refine ⟨⟨"CLRST", 0x33000000#32, 0xFFFFFFFC#32⟩, by simp [opcodeTable], rfl, ?_⟩
  rw [encode, OpcodeRow.selects_toWord]
  revert m
  decide

end Sys2Proof.Laws.EncodeMatchesRow
end

