-- ==== Sys2Proof/Laws/Words.lean ====
section
/-! SUPPORT. Words of a multi-word value: reading one, replacing one, and rebuilding the value from its words. -/

namespace Sys2Proof.Machine

/-- A word as a number. -/
theorem wordOf_toNat (v j : Nat) : (wordOf v j).toNat = v / 2 ^ (64 * j) % 2 ^ 64 := by simp [wordOf]

/-- A number below 2^64 is its own word 0. -/
theorem wordOf_zero_toNat {v : Nat} (h : v < 2 ^ 64) : (wordOf v 0).toNat = v := by
  rw [wordOf_toNat, Nat.mul_zero, Nat.pow_zero, Nat.div_one, Nat.mod_eq_of_lt h]

/-- The replaced word's part of a value does not exceed the value. -/
theorem wordOf_mul_le (v i : Nat) : (wordOf v i).toNat * 2 ^ (64 * i) ≤ v := by
  rw [wordOf_toNat]
  exact (Nat.mul_le_mul_right _ (Nat.mod_le _ _)).trans (Nat.div_mul_le_self _ _)

/-- Replacing a word takes its old part out of the value and puts the new part in. -/
theorem replaceWord_add (v i : Nat) (a : Word) :
    replaceWord v i a + (wordOf v i).toNat * 2 ^ (64 * i) = v + a.toNat * 2 ^ (64 * i) := by
  have := wordOf_mul_le v i
  unfold replaceWord
  omega

/-- A value with one word replaced, as the part below the word, the new word and the part above it. -/
theorem replaceWord_eq (v i : Nat) (a : Word) :
    replaceWord v i a =
      v % 2 ^ (64 * i) + 2 ^ (64 * i) * (a.toNat + 2 ^ 64 * (v / 2 ^ (64 * i) / 2 ^ 64)) := by
  have h := replaceWord_add v i a
  rw [wordOf_toNat] at h
  have h1 := Nat.div_add_mod v (2 ^ (64 * i))
  have h2 := Nat.div_add_mod (v / 2 ^ (64 * i)) (2 ^ 64)
  generalize 2 ^ (64 * i) = p at *
  generalize v / p = x at *
  generalize x / 2 ^ 64 = y at *
  generalize x % 2 ^ 64 = z at *
  have h3 : p * x = p * (2 ^ 64 * y) + z * p := by rw [← h2]; ring
  have h4 : p * (a.toNat + 2 ^ 64 * y) = a.toNat * p + p * (2 ^ 64 * y) := by ring
  omega

/-- Replacing a word that lies below bit `n` keeps a value below 2^n. -/
theorem replaceWord_lt {n v i : Nat} {a : Word} (h : 64 * i + 64 ≤ n) (hv : v < 2 ^ n) : replaceWord v i a < 2 ^ n := by
  have ha := a.isLt
  have hlow : v % 2 ^ (64 * i) < 2 ^ (64 * i) := Nat.mod_lt _ (Nat.two_pow_pos _)
  obtain ⟨m, rfl⟩ : ∃ m, n = 64 * i + (64 + m) := ⟨n - (64 * i + 64), by omega⟩
  rw [replaceWord_eq]
  rw [pow_add] at hv ⊢
  have h2 : v / 2 ^ (64 * i) / 2 ^ 64 < 2 ^ m := by
    rw [Nat.div_lt_iff_lt_mul (Nat.two_pow_pos _), Nat.div_lt_iff_lt_mul (Nat.two_pow_pos _), ← pow_add, Nat.mul_comm,
      Nat.add_comm m]
    exact hv
  have h3 : a.toNat + 2 ^ 64 * (v / 2 ^ (64 * i) / 2 ^ 64) + 1 ≤ 2 ^ (64 + m) := by
    rw [pow_add]
    have := Nat.mul_le_mul_left (2 ^ 64) (Nat.succ_le_of_lt h2)
    rw [Nat.mul_succ] at this
    omega
  have h4 := Nat.mul_le_mul_left (2 ^ (64 * i)) h3
  rw [Nat.mul_succ] at h4
  omega

/-- The words of a value with one word replaced: the new word in its place, the others as they were. -/
theorem wordOf_replaceWord (v i j : Nat) (a : Word) :
    wordOf (replaceWord v i a) j = if j = i then a else wordOf v j := by
  have ha := a.isLt
  have hlow : v % 2 ^ (64 * i) < 2 ^ (64 * i) := Nat.mod_lt _ (Nat.two_pow_pos _)
  apply BitVec.eq_of_toNat_eq
  rw [replaceWord_eq, wordOf_toNat]
  split_ifs with hji
  · subst hji
    rw [Nat.add_mul_div_left _ _ (Nat.two_pow_pos _), Nat.div_eq_of_lt hlow, Nat.zero_add, Nat.add_mul_mod_self_left,
      Nat.mod_eq_of_lt ha]
  rw [wordOf_toNat]
  rcases Nat.lt_or_gt_of_ne hji with hj | hj
  · obtain ⟨d, rfl⟩ : ∃ d, i = j + 1 + d := ⟨i - (j + 1), by omega⟩
    have e : 2 ^ (64 * (j + 1 + d)) = 2 ^ (64 * j) * (2 ^ 64 * 2 ^ (64 * d)) := by
      rw [← pow_add, ← pow_add]; congr 1; ring
    rw [e]
    generalize v / (2 ^ (64 * j) * (2 ^ 64 * 2 ^ (64 * d))) / 2 ^ 64 = b
    have hp : 0 < 2 ^ (64 * j) := Nat.two_pow_pos _
    rw [Nat.mul_assoc (2 ^ (64 * j)), Nat.mul_assoc (2 ^ 64), Nat.add_mul_div_left _ _ hp, Nat.add_mul_mod_self_left,
      Nat.mod_mul_right_div_self, Nat.mod_mul_right_mod]
  · obtain ⟨d, rfl⟩ : ∃ d, j = i + 1 + d := ⟨j - (i + 1), by omega⟩
    have e : 2 ^ (64 * (i + 1 + d)) = 2 ^ (64 * i) * 2 ^ 64 * 2 ^ (64 * d) := by
      rw [← pow_add, ← pow_add]; congr 1; ring
    rw [e, ← Nat.div_div_eq_div_mul, ← Nat.div_div_eq_div_mul, ← Nat.div_div_eq_div_mul, ← Nat.div_div_eq_div_mul,
      Nat.add_mul_div_left _ _ (Nat.two_pow_pos _), Nat.div_eq_of_lt hlow, Nat.zero_add,
      Nat.add_mul_div_left _ _ (Nat.two_pow_pos _), Nat.div_eq_of_lt ha, Nat.zero_add]

end Sys2Proof.Machine
end

