-- ==== Sys2Proof/Tests/Slice0.lean ====
section
/-! SUPPORT. Tests of the model. Expected values come from the spec: the encodings of 30_encoding.md R50, R55 and the
vectors of 40_move.md to 45_system.md, 60_exceptions.md R137 and 95_test_vectors.md, cited by their labels. The last part
shows, for every statement with hypotheses, a state and operands that meet them. -/

namespace Sys2Proof.Tests

open Sys2Proof.Machine

/-! ### Well-formedness refuses operands that no encoding holds (30_encoding.md R48) -/

theorem test_insw_word_index_too_large : (Instr.insw 0 4).wellFormed = false := by decide

theorem test_rdw_word_index_too_large : (Instr.rdw 0 4).wellFormed = false := by decide

theorem test_shli_amount_too_large : (Instr.shli128 0 0 1024).wellFormed = false ∧
    (Instr.shli192 0 0 1024).wellFormed = false ∧ (Instr.shli256 0 0 1024).wellFormed = false := by decide

theorem test_rdsr_number_too_large : (Instr.rdsr 16).wellFormed = false := by decide

theorem test_wrsr_number_too_large : (Instr.wrsr 16).wellFormed = false := by decide

/-! ### Decoding of words written out from R46 and R50: OP WS RD RS1 RS2 Z IMM -/

theorem test_decode_setw : decode 0b00000001_01_001_000_000_000_0000000000#32 = .ok (.setw128 1) ∧
    decode 0b00000001_10_000_000_000_000_0000000000#32 = .ok (.setw192 0) ∧
    decode 0b00000001_11_111_000_000_000_0000000000#32 = .ok (.setw256 7) := by decide

theorem test_decode_insw_rdw : decode 0b00000010_00_111_000_000_000_0000000011#32 = .ok (.insw 7 3) ∧
    decode 0b00000011_00_000_111_000_000_0000000011#32 = .ok (.rdw 7 3) := by decide

theorem test_decode_widen : decode 0b00000100_01_011_010_000_000_0000000000#32 = .ok (.widen128 3 2) ∧
    decode 0b00000100_10_001_000_000_000_0000000000#32 = .ok (.widen192 1 0) ∧
    decode 0b00000100_11_010_001_000_000_0000000000#32 = .ok (.widen256 2 1) := by decide

theorem test_decode_narrow : decode 0b00000101_01_100_011_000_000_0000000000#32 = .ok (.narrow128 4 3) ∧
    decode 0b00000101_10_011_010_000_000_0000000000#32 = .ok (.narrow192 3 2) ∧
    decode 0b00000101_11_110_001_000_000_0000000000#32 = .ok (.narrow256 6 1) := by decide

theorem test_decode_add : decode 0b00010000_01_011_001_010_000_0000000000#32 = .ok (.add128 3 1 2) ∧
    decode 0b00010000_10_000_011_011_000_0000000000#32 = .ok (.add192 0 3 3) ∧
    decode 0b00010000_11_000_100_100_000_0000000000#32 = .ok (.add256 0 4 4) := by decide

theorem test_decode_mul : decode 0b00010001_01_000_001_000_000_0000000000#32 = .ok (.mul128 0 1) ∧
    decode 0b00010001_10_111_111_000_000_0000000000#32 = .ok (.mul192 7 7) ∧
    decode 0b00010001_11_000_110_000_000_0000000000#32 = .ok (.mul256 0 6) := by decide

theorem test_decode_divc : decode 0b00010010_01_111_000_000_000_0000000001#32 = .ok (.divc128 7 0 .d1e4) ∧
    decode 0b00010010_10_010_010_000_000_0000000010#32 = .ok (.divc192 2 2 .d19n) ∧
    decode 0b00010010_11_111_001_000_000_0000000011#32 = .ok (.divc256 7 1 .d1e19) ∧
    decode 0b00010010_11_111_001_000_000_0000000000#32 = .ok (.divc256 7 1 .d10) := by decide

theorem test_decode_shl : decode 0b00011000_01_111_000_000_000_0000000000#32 = .ok (.shl128 7 0) ∧
    decode 0b00011000_10_000_000_000_000_0000000000#32 = .ok (.shl192 0 0) ∧
    decode 0b00011000_11_001_010_000_000_0000000000#32 = .ok (.shl256 1 2) := by decide

theorem test_decode_shli : decode 0b00011001_01_111_010_000_000_0000001111#32 = .ok (.shli128 7 2 15) ∧
    decode 0b00011001_10_111_110_000_000_0001100100#32 = .ok (.shli192 7 6 100) ∧
    decode 0b00011001_11_000_111_000_000_0100101100#32 = .ok (.shli256 0 7 300) := by decide

theorem test_decode_clz : decode 0b00011010_01_000_000_000_000_0000000000#32 = .ok (.clz128 0) ∧
    decode 0b00011010_10_000_001_000_000_0000000000#32 = .ok (.clz192 1) ∧
    decode 0b00011010_11_000_011_000_000_0000000000#32 = .ok (.clz256 3) := by decide

theorem test_decode_clzt : decode 0b00011011_01_000_000_000_000_0000000000#32 = .ok (.clzt128 0) ∧
    decode 0b00011011_10_000_001_000_000_0000000000#32 = .ok (.clzt192 1) ∧
    decode 0b00011011_11_000_011_000_000_0000000000#32 = .ok (.clzt256 3) := by decide

theorem test_decode_rnd : decode 0b00100000_01_001_000_000_000_0000000111#32 = .ok (.rnd 1 0 .below true) ∧
    decode 0b00100000_01_001_000_000_000_0000000001#32 = .ok (.rnd 1 0 .above false) ∧
    decode 0b00100000_01_001_000_000_000_0000000100#32 = .ok (.rnd 1 0 .exact true) ∧
    decode 0b00100000_01_001_000_000_000_0000000010#32 = .ok (.rnd 1 0 .reserved false) := by decide

theorem test_decode_system : decode 0b00110000_00_000_000_000_000_0000000000#32 = .ok .nop ∧
    decode 0b00110001_00_000_000_000_000_0000000010#32 = .ok (.rdsr 2) ∧
    decode 0b00110010_00_000_000_000_000_0000000001#32 = .ok (.wrsr 1) ∧
    decode 0b00110011_00_000_000_000_000_0000000011#32 = .ok (.clrst 3) := by decide

/-- Vectors DC1 to DC5 and DC14: no such operation code, or a width select it does not take. -/
theorem test_illegal_codes : decode 0x00000000#32 = .error .unknownOp ∧
    decode 0xFFFFFFFF#32 = .error .unknownOp ∧
    decode 0x10000000#32 = .error .badWidthSelect ∧
    decode 0x02400000#32 = .error .badWidthSelect ∧
    decode 0x20800000#32 = .error .badWidthSelect ∧
    decode 0x06400000#32 = .error .unknownOp := by decide

/-- Vectors DC6 to DC13: a bit that must be zero. -/
theorem test_illegal_bits : decode 0x01400001#32 = .error .mustBeZero ∧
    decode 0x01410000#32 = .error .mustBeZero ∧
    decode 0x1A480000#32 = .error .mustBeZero ∧
    decode 0x11402000#32 = .error .mustBeZero ∧
    decode 0x12400004#32 = .error .mustBeZero ∧
    decode 0x10400400#32 = .error .mustBeZero ∧
    decode 0x20400008#32 = .error .mustBeZero ∧
    decode 0x31000010#32 = .error .mustBeZero := by decide

/-! ### One step of each command -/

/-- What `f` sees in the state command `i` leaves. -/
def seen {α : Type} (i : Instr) (s : State) (f : State → α) : Option α :=
  match exec i s with
  | .next t => some (f t)
  | .fault _ => none
  | .refused _ => none

/-- A state with the operand `a` and two wide registers, W1 and W2. -/
def two (a : Word) (x y : Wide) : State :=
  { State.reset with opa := a, regs := ((State.reset.regs.set 1 (some x)).set 2 (some y)) }

/-- A state with the operand `a` and the wide register W1. -/
def one (a : Word) (x : Wide) : State := { State.reset with opa := a, regs := State.reset.regs.set 1 (some x) }

/-- A response without fault. -/
def fine (res : Word) : Option Response := some ⟨false, 0, res⟩

/-- A response with cause `c`. -/
def failed (c : BitVec 4) : Option Response := some ⟨true, c, 0⟩

/-- MV6. -/
theorem test_setw128 : seen (.setw128 1) { State.reset with opa := 0xFFFFFFFFFFFFFFFF#64 } (fun t => (t.wide 1, t.rsp)) =
    some (some (.u128 (BitVec.ofNat 128 (2 ^ 64 - 1))), fine 0) := by decide

/-- Program 1, step 1. -/
theorem test_setw192 : seen (.setw192 0) { State.reset with opa := 5#64 } (fun t => (t.wide 0, t.rsp)) =
    some (some (.u192 5), fine 0) := by decide

/-- MV1. -/
theorem test_setw256 : seen (.setw256 7) { State.reset with opa := 0xDEADBEEF#64 } (fun t => (t.wide 7, t.rsp)) =
    some (some (.u256 0xDEADBEEF), fine 0) := by decide

/-- MV12: the word above a U128 value in a U192 register. -/
theorem test_insw : seen (.insw 1 2) (one 1 (.u192 (BitVec.ofNat 192 (2 ^ 128 - 1)))) (fun t => (t.wide 1, t.rsp)) =
    some (some (.u192 (BitVec.ofNat 192 (2 ^ 128 - 1 + 2 ^ 128))), fine 0) := by decide

/-- MV8. -/
theorem test_insw_index : seen (.insw 1 2) (one 0 (.u128 1)) (fun t => (t.wide 1, t.status, t.rsp)) =
    some (some (.u128 1), ⟨false, false, true, some .index⟩, failed 4) := by decide

/-- MV3, MV4 of W7 as MV2 leaves it. -/
theorem test_rdw : seen (.rdw 1 3) (one 0 (.u256 (BitVec.ofNat 256 (2 ^ 192 + 0xDEADBEEF)))) (·.rsp) = some (fine 1) ∧
    seen (.rdw 1 0) (one 0 (.u256 (BitVec.ofNat 256 (2 ^ 192 + 0xDEADBEEF)))) (·.rsp) = some (fine 0xDEADBEEF) := by decide

/-- MV16 and MV10. -/
theorem test_widen128 : seen (.widen128 1 1) (one 0 (.u128 7)) (fun t => (t.wide 1, t.rsp)) =
      some (some (.u128 7), fine 0) ∧
    seen (.widen128 3 1) (one 0 (.u256 7)) (fun t => (t.wide 3, t.rsp)) = some (none, failed 3) := by decide

/-- AM9. -/
theorem test_widen192 : seen (.widen192 7 1) (one 0 (.u128 (BitVec.ofNat 128 (2 ^ 128 - 1)))) (fun t => (t.wide 7, t.rsp)) =
    some (some (.u192 (BitVec.ofNat 192 (2 ^ 128 - 1))), fine 0) := by decide

/-- MV9. -/
theorem test_widen256 : seen (.widen256 2 1) (one 0 (.u128 (BitVec.ofNat 128 (2 ^ 128 - 1)))) (fun t => (t.wide 2, t.rsp)) =
    some (some (.u256 (BitVec.ofNat 256 (2 ^ 128 - 1))), fine 0) := by decide

/-- MV13: a 1 bit is dropped. -/
theorem test_narrow128 : seen (.narrow128 4 1) (one 0 (.u192 (BitVec.ofNat 192 (2 ^ 129 - 1))))
    (fun t => (t.wide 4, t.status.c, t.status.ovs, t.rsp)) = some (some (.u128 (BitVec.ofNat 128 (2 ^ 128 - 1))), true, true, fine 0) := by
  decide

/-- MV14: equal width copies. -/
theorem test_narrow192 : seen (.narrow192 5 1) (one 0 (.u192 (BitVec.ofNat 192 (2 ^ 129 - 1)))) (fun t => (t.wide 5, t.status.c, t.rsp)) =
    some (some (.u192 (BitVec.ofNat 192 (2 ^ 129 - 1))), false, fine 0) := by decide

/-- MV15: the source is narrower. -/
theorem test_narrow256 : seen (.narrow256 6 1) (one 0 (.u128 1)) (fun t => (t.wide 6, t.rsp)) =
    some (none, failed 3) := by decide

/-- AM1. -/
theorem test_add128 : seen (.add128 0 1 2) (two 0 (.u128 (BitVec.ofNat 128 (2 ^ 128 - 1))) (.u128 1))
    (fun t => (t.wide 0, t.status.c, t.status.ovs, t.rsp)) = some (some (.u128 0), true, true, fine 0) := by decide

/-- AM3. -/
theorem test_add192 : seen (.add192 0 1 1) (one 0 (.u192 (BitVec.ofNat 192 (2 ^ 192 - 1)))) (fun t => (t.wide 0, t.status.c, t.rsp)) =
    some (some (.u192 (BitVec.ofNat 192 (2 ^ 192 - 2))), true, fine 0) := by decide

/-- AM4, and a width fault as in AM7. -/
theorem test_add256 : seen (.add256 0 1 1) (one 0 (.u256 0)) (fun t => (t.wide 0, t.status.c, t.rsp)) =
      some (some (.u256 0), false, fine 0) ∧
    seen (.add256 0 1 2) (two 0 (.u256 1) (.u128 1)) (fun t => (t.wide 0, t.rsp)) = some (none, failed 3) := by decide

/-- AM8. -/
theorem test_mul128 : seen (.mul128 0 1) (one 0xFFFFFFFFFFFFFFFF (.u128 (BitVec.ofNat 128 (2 ^ 128 - 1)))) (fun t => (t.wide 0, t.status.c)) =
    some (some (.u128 0xFFFFFFFFFFFFFFFF0000000000000001), true) := by decide

/-- AM10. -/
theorem test_mul192 : seen (.mul192 1 1) (one 0xFFFFFFFFFFFFFFFF (.u192 (BitVec.ofNat 192 (2 ^ 128 - 1)))) (fun t => (t.wide 1, t.status.c)) =
    some (some (.u192 0xFFFFFFFFFFFFFFFEFFFFFFFFFFFFFFFF0000000000000001), false) := by decide

/-- AM11 and AM13. -/
theorem test_mul256 : seen (.mul256 0 1) (one 2 (.u256 (BitVec.ofNat 256 (2 ^ 256 - 1)))) (fun t => (t.wide 0, t.status.c)) =
      some (some (.u256 (BitVec.ofNat 256 (2 ^ 256 - 2))), true) ∧
    seen (.mul256 0 1) (one 0 (.u256 (BitVec.ofNat 256 (2 ^ 256 - 1)))) (fun t => (t.wide 0, t.status.c)) = some (some (.u256 0), false) := by
  decide

/-- DV2 and DV3. -/
theorem test_divc128 : seen (.divc128 7 1 .d1e4) (one 0 (.u128 (BitVec.ofNat 128 (2 ^ 128 - 1)))) (fun t => (t.wide 7, t.rem)) =
      some (some (.u128 0x00068DB8BAC710CB295E9E1B089A0275), 0x5AF) ∧
    seen (.divc128 7 1 .d19n) (one 0 (.u128 (BitVec.ofNat 128 (2 ^ 128 - 1)))) (fun t => (t.wide 7, t.rem)) =
      some (some (.u128 0x0000000000000001D83C94FB6D2AC34D), 0x66BC2F823A62C34C) := by decide

/-- DV11 and DV12. -/
theorem test_divc192 : seen (.divc192 7 1 .d19n) (one 0 (.u192 0x8AC7230489E80000)) (fun t => (t.wide 7, t.rem)) =
      some (some (.u192 1), 1) ∧
    seen (.divc192 7 1 .d1e19) (one 0 (.u192 0x8AC7230489E7FFFF)) (fun t => (t.wide 7, t.rem)) =
      some (some (.u192 0), 0x8AC7230489E7FFFF) := by decide

/-- DV6. -/
theorem test_divc256 : seen (.divc256 7 1 .d10) (one 0 (.u256 (BitVec.ofNat 256 (2 ^ 256 - 1)))) (fun t => (t.wide 7, t.rem)) =
    some (some (.u256 0x1999999999999999999999999999999999999999999999999999999999999999), 5) := by decide

/-- SH2 and SH3. -/
theorem test_shl128 : seen (.shl128 7 1) (one 127 (.u128 1)) (fun t => (t.wide 7, t.status)) =
      some (some (.u128 0x80000000000000000000000000000000), ⟨false, false, false, none⟩) ∧
    seen (.shl128 7 1) (one 128 (.u128 1)) (fun t => (t.wide 7, t.rsp)) = some (some (.u128 0), fine 0) := by decide

/-- Program 1, step 7. -/
theorem test_shl192 : seen (.shl192 1 1) (one 61 (.u192 (BitVec.ofNat 192 (5 * 2 ^ 128)))) (fun t => (t.wide 1, t.rsp)) =
    some (some (.u192 0xA00000000000000000000000000000000000000000000000), fine 0) := by decide

/-- R80 with SH5's amount, at width 256: the amount is not taken modulo anything. -/
theorem test_shl256 : seen (.shl256 7 1) (one 0xFFFFFFFFFFFFFFFF (.u256 1)) (fun t => (t.wide 7, t.rsp)) =
    some (some (.u256 0), fine 0) := by decide

/-- SH8. -/
theorem test_shli128 : seen (.shli128 7 1 16) (one 0 (.u128 0x0001ED09BEAD87C0378D8E6400000000))
    (fun t => (t.wide 7, t.status.c)) = some (some (.u128 0xED09BEAD87C0378D8E64000000000000), false) := by decide

/-- SH11. -/
theorem test_shli192 : seen (.shli192 7 1 100) (one 0 (.u192 (BitVec.ofNat 192 (2 ^ 192 - 1)))) (fun t => (t.wide 7, t.rsp)) =
    some (some (.u192 0xFFFFFFFFFFFFFFFFFFFFFFF0000000000000000000000000), fine 0) := by decide

/-- SH9. -/
theorem test_shli256 : seen (.shli256 7 1 64)
    (one 0 (.u256 0x0000000000000004000000000000000300000000000000020000000000000001)) (·.wide 7) =
    some (some (.u256 0x0000000000000003000000000000000200000000000000010000000000000000)) := by decide

/-- CZ1 and CZ6. -/
theorem test_clz128 : seen (.clz128 1) (one 0 (.u128 1)) (·.rsp) = some (fine 127) ∧
    seen (.clz128 1) (one 0 (.u128 0)) (·.rsp) = some (fine 128) := by decide

/-- CZ2. -/
theorem test_clz192 : seen (.clz192 1) (one 0 (.u192 (BitVec.ofNat 192 (2 ^ 191)))) (·.rsp) = some (fine 0) := by decide

/-- CZ5: no limit at 64. -/
theorem test_clz256 : seen (.clz256 1) (one 0 (.u256 (BitVec.ofNat 256 (2 ^ 191)))) (·.rsp) = some (fine 64) := by decide

/-- CZ1 and CZ8. -/
theorem test_clzt128 : seen (.clzt128 1) (one 0 (.u128 1)) (·.rsp) = some (fine 64) ∧
    seen (.clzt128 1) (one 0 (.u192 1)) (·.rsp) = some (failed 3) := by decide

/-- Program 1, step 6. -/
theorem test_clzt192 : seen (.clzt192 1) (one 0 (.u192 (BitVec.ofNat 192 (5 * 2 ^ 128)))) (·.rsp) = some (fine 61) := by decide

/-- CZ4. -/
theorem test_clzt256 : seen (.clzt256 1)
    (one 0 (.u256 0x0000000000000004000000000000000300000000000000020000000000000001)) (·.rsp) = some (fine 61) := by
  decide

/-- RN2: k = 5, flag BELOW. -/
theorem test_rnd_below : seen (.rnd 2 1 .below false) (one 0 (.u128 141421356237309504880168872420969807856))
    (fun t => (t.wide 2, t.rsp)) = some (some (.u128 1414213562373095048801688724209698), fine 0x0000000200000005) := by
  decide

/-- RN11: TOWARD_NEG, negative, the significand reaches 10^34 and the exponent overflows. -/
theorem test_rnd_overflow : seen (.rnd 2 1 .exact true)
    ((one 12286 (.u128 (BitVec.ofNat 128 (10 ^ 35 - 5)))).setRm .towardNeg) (fun t => (t.wide 2, t.rsp)) =
    some (some (.u128 (BitVec.ofNat 128 (10 ^ 33))), fine 0x0000000700003000) := by decide

/-- R110: nothing but the response changes. -/
theorem test_nop : seen .nop (one 7 (.u128 1)) id = some { one 7 (.u128 1) with rsp := fine 0 } := by decide

/-- AM15 and MV18: STATUS, and TAGS of a state with W1 U128 and W2 U256. -/
theorem test_rdsr : seen (.rdsr 0) { State.reset with status := ⟨false, true, true, some .width⟩ } (·.rsp) =
      some (fine 0x1E) ∧
    seen (.rdsr 4) (two 0 (.u128 1) (.u256 1)) (·.rsp) = some (fine 0x34) := by decide

/-- Program 4, step 14, and the reserved value 5. -/
theorem test_wrsr : seen (.wrsr 1) { State.reset with opa := 3#64 } (fun t => (t.rm, t.rsp)) =
      some (.towardPos, fine 0) ∧
    seen (.wrsr 1) { State.reset with opa := 5#64 } (fun t => (t.rm, t.rsp)) = some (.halfEven, failed 5) := by decide

/-- Program 4, step 7: C stays. -/
theorem test_clrst : seen (.clrst 3) { State.reset with status := ⟨true, true, true, some .width⟩ } (·.status) =
    some ⟨true, false, false, none⟩ := by decide

/-- A step takes the command the host interface places: the RDW of 0x03000000 from reset faults with EMPTY. -/
theorem test_step_from_reset : (match step (State.reset.withFetchWord 32 0x03000000) with
    | .next t => t.rsp | .fault _ => none | .refused _ => none) = failed 2 := by decide

/-! ### For every statement with hypotheses, a state and operands that meet them -/

open Sys2Proof.Claims

/-- A state that offers one command. -/
def offer (insn : CmdWord) (opa : Word) (s : State) : State := { s with cmds := [⟨insn, opa⟩] }

/-- A state with every special register away from its reset value. -/
def busy : State :=
  { one 3 (.u128 5) with
    status := ⟨true, true, true, some .width⟩, rm := .towardNeg, rem := 9, rres := ⟨7, true, .finite⟩
    rsp := some ⟨true, 3, 0⟩ }

theorem test_witness_EveryStepKeepsGood :
    (offer 0x12490003 0 busy).Good ∧ ∃ t, step (offer 0x12490003 0 busy) = .next t :=
  ⟨⟨by decide, by decide, by simp [offer, busy, RRes.InRange, one, State.reset, Config.default], by
    intro r h; cases h; decide⟩, _, rfl⟩

theorem test_witness_TagsNeverReturnToEmpty :
    (∃ t, exec (.add128 3 1 1) busy = .next t) ∧ busy.wide 1 = some (.u128 5) ∧
      (Instr.add128 3 1 1).dest ≠ some 1 := ⟨⟨_, rfl⟩, by decide, by decide⟩

theorem test_witness_DecodeOfEncodeIsTheInstruction :
    (Instr.insw 7 3).WellFormed ∧ (Instr.shli256 0 7 1023).WellFormed ∧ (Instr.rdsr 15).WellFormed := by decide

theorem test_witness_EncodeOfDecodeIsTheWord : decode 0x197F03FF#32 = .ok (.shli128 7 7 1023) := by decide

theorem test_witness_DecoderAgreesWithOpcodeTable :
    (⟨"NOP", 0x30000000#32, 0xFFFFFFFF#32⟩ : OpcodeRow) ∈ opcodeTable ∧
    (⟨"NOP", 0x30000000#32, 0xFFFFFFFF#32⟩ : OpcodeRow).selects 0x30000000#32 = true ∧
    decode 0x30000000#32 = .ok .nop := by decide

theorem test_witness_StepRunsTheDecodedCommand :
    (offer 0x10594000 0 busy).cmds = [⟨0x10594000, 0⟩] ∧ decode 0x10594000#32 = .ok (.add128 3 1 2) := by decide

theorem test_witness_UnmatchedWordFaultsWithIllegal :
    (offer 0x197FFFFF 0 busy).cmds = [⟨0x197FFFFF, 0⟩] ∧
    ∀ row ∈ opcodeTable, row.selects 0x197FFFFF#32 = false := by decide

theorem test_witness_EveryAcceptedCommandIsAnswered : (offer 0 0 busy).cmds = [⟨0, 0⟩] := by decide

theorem test_witness_IdleStepChangesNothing : busy.cmds = [] := by decide

theorem test_witness_FaultingCommandIsSquashed :
    (offer 0x03000000 0 busy).cmds = [⟨0x03000000, 0⟩] ∧
    ∃ t, step (offer 0x03000000 0 busy) = .next t ∧ ∃ r, t.rsp = some r ∧ r.fault = true :=
  ⟨by decide, _, rfl, _, rfl, rfl⟩

/-- One command for each cause: no row, RDW of EMPTY, ADD.192 of U128, RDW of word 2 of U128, RND with `tf` = 10,
RND with flag BELOW and nothing to drop; and one that completes. -/
theorem test_witness_EachCauseIsReportedExactlyWhenItHolds :
    (∃ t, step (offer 0 0 busy) = .next t ∧ t.rsp = failed 1) ∧
    (∃ t, step (offer 0x03000002 0 busy) = .next t ∧ t.rsp = failed 2) ∧
    (∃ t, step (offer 0x10812000 0 busy) = .next t ∧ t.rsp = failed 3) ∧
    (∃ t, step (offer 0x03010002 0 busy) = .next t ∧ t.rsp = failed 4) ∧
    (∃ t, step (offer 0x20410002 0 busy) = .next t ∧ t.rsp = failed 5) ∧
    (∃ t, step (offer 0x20410003 0 busy) = .next t ∧ t.rsp = failed 6) ∧
    ∃ t, step (offer 0x03010001 0 busy) = .next t ∧ t.rsp = fine 0 :=
  ⟨⟨_, rfl, by decide⟩, ⟨_, rfl, by decide⟩, ⟨_, rfl, by decide⟩, ⟨_, rfl, by decide⟩, ⟨_, rfl, by decide⟩,
    ⟨_, rfl, by decide⟩, _, rfl, by decide⟩

theorem test_witness_ErrAndEcauseInfluenceNothing :
    Instr.rdsr 4 ≠ .rdsr 0 ∧ (∃ t, exec (.rdsr 4) busy = .next t) ∧
    ∃ t, exec (.rdsr 4) { busy with status := { busy.status with err := false, ecause := none } } = .next t :=
  ⟨by decide, ⟨_, rfl⟩, _, rfl⟩

/-- CLRST 1, which clears ERR, and CLRST 2, which does not. -/
theorem test_witness_OnlyClrstClearsErr :
    busy.status.err = true ∧
    (∃ t, step (offer 0x33000001 0 busy) = .next t ∧ t.status.err = false) ∧
    ∃ t, step (offer 0x33000002 0 busy) = .next t ∧ t.status.err = true :=
  ⟨rfl, ⟨_, rfl, by decide⟩, _, rfl, by decide⟩

/-- A sequence in which the second of two commands faults, and one in which none does. -/
theorem test_witness_ErrAtTheEndTellsWhetherACommandFaulted :
    (∃ t, Sys2Proof.core.run 2 { State.reset with cmds := [⟨0x30000000, 0⟩, ⟨0x03000000, 0⟩] } = .next t ∧
      t.status = ⟨false, false, true, some .empty⟩) ∧
    (∃ t, Sys2Proof.core.run 2 { State.reset with cmds := [⟨0x30000000, 0⟩, ⟨0x33000002, 0⟩] } = .next t ∧
      t.status.err = false) ∧
    ∀ m, decode 0x33000002#32 = .ok (.clrst m) → m.getLsbD 0 = false :=
  ⟨⟨_, rfl, by decide⟩, ⟨_, rfl, by decide⟩, by intro m h; cases h; decide⟩

/-- OVS set by ADD with a carry, cleared by CLRST 2, and left by DIVC. -/
theorem test_witness_SpecialRegistersHaveOneWriter :
    (∃ t, exec (.add128 3 1 1) (one 0 (.u128 0x80000000000000000000000000000000)) = .next t ∧ t.status.ovs = true) ∧
    (∃ t, exec (.clrst 2) busy = .next t ∧ t.status.ovs = false) ∧
    ((Instr.divc128 1 1 .d10).writesCarry = false ∧ ∃ t, exec (.divc128 1 1 .d10) busy = .next t) :=
  ⟨⟨_, rfl, by decide⟩, ⟨_, rfl, by decide⟩, rfl, _, rfl⟩

theorem test_witness_ReadsHaveNoSideEffects :
    (Instr.rdw 1 1).isRead = true ∧ ∃ t, exec (.rdw 1 1) busy = .next t ∧ ∃ r, t.rsp = some r ∧ r.fault = false :=
  ⟨rfl, _, rfl, _, rfl, rfl⟩

/-- RND in two states that differ outside what it reads. -/
theorem test_witness_ResultDependsOnlyOnNamedOperands :
    (∀ r ∈ (Instr.rnd 1 1 .exact false).sources, ({ busy with rem := 0 } : State).wide r = busy.wide r) ∧
    ∃ t t' r, exec (.rnd 1 1 .exact false) busy = .next t ∧ exec (.rnd 1 1 .exact false) { busy with rem := 0 } = .next t' ∧
      t.rsp = some r ∧ r.fault = false := ⟨by decide, _, _, _, rfl, rfl, rfl, rfl⟩

/-- EMPTY, the first index past a register of each width, the last index of each width, and the last index of R48. -/
theorem test_witness_InswReplacesOneWord :
    State.reset.wide 1 = none ∧
    ((one 0 (.u128 1)).wide 1 = some (.u128 1) ∧ (Wide.u128 1).width.words ≤ 2 ∧ 1 < (Wide.u128 1).width.words) ∧
    ((Wide.u192 1).width.words ≤ 3 ∧ 2 < (Wide.u192 1).width.words) ∧
    ((Wide.u256 1).width.words ≤ 4 ∧ 3 < (Wide.u256 1).width.words) := by decide

theorem test_witness_RdwAnswersOneWord :
    State.reset.wide 1 = none ∧
    ((one 0 (.u192 1)).wide 1 = some (.u192 1) ∧ (Wide.u192 1).width.words ≤ 3 ∧ 2 < (Wide.u192 1).width.words) ∧
    ((Wide.u128 1).width.words ≤ 2 ∧ 1 < (Wide.u128 1).width.words) ∧
    ((Wide.u256 1).width.words ≤ 4 ∧ 3 < (Wide.u256 1).width.words) := by decide

/-- A wider source, a source of equal width, a narrower source. -/
theorem test_witness_WidenKeepsTheInteger :
    (one 0 (.u192 1)).wide 1 = some (.u192 1) ∧ Width.bits .w128 < (Wide.u192 1).width.bits ∧
    (Wide.u192 1).width.bits ≤ Width.bits .w192 ∧ (Wide.u192 1).width.bits ≤ Width.bits .w256 := by decide

/-- A narrower source, a source of equal width, a wider source. -/
theorem test_witness_NarrowKeepsTheLowBits :
    (one 0 (.u192 1)).wide 1 = some (.u192 1) ∧ (Wide.u192 1).width.bits < Width.bits .w256 ∧
    Width.bits .w192 ≤ (Wide.u192 1).width.bits ∧ Width.bits .w128 ≤ (Wide.u192 1).width.bits := by decide

theorem test_witness_SetwThenInswBuildsTheValue :
    2 ^ 256 - 1 < 2 ^ Width.bits .w256 ∧ ([3, 1, 2] : List Nat).Perm (List.range' 1 (Width.words .w256 - 1)) := by
  decide

/-- Two sources of the command's width, a source of another width, an EMPTY source. -/
theorem test_witness_AddWritesSumAndCarry :
    ((two 0 (.u128 1) (.u192 1)).wide 1 = some (.u128 1) ∧ (two 0 (.u128 1) (.u192 1)).wide 2 = some (.u192 1)) ∧
    (Wide.u128 1).width = .w128 ∧ (Wide.u192 1).width ≠ .w128 ∧ (two 0 (.u128 1) (.u192 1)).wide 3 = none := by decide

theorem test_witness_MulWritesProductAndCarry :
    (one 0 (.u128 1)).wide 1 = some (.u128 1) ∧ (Wide.u128 1).width = .w128 ∧ (Wide.u128 1).width ≠ .w192 ∧
    (one 0 (.u128 1)).wide 0 = none := by decide

theorem test_witness_CarryTellsWhetherTheResultIsExact :
    (∃ t z, exec (.addAt .w128 0 1 1) (one 9 (.u128 1)) = .next t ∧ t.rsp = some ⟨false, 0, 0⟩ ∧ t.wide 0 = some z) ∧
    (∃ t z, exec (.mulAt .w128 0 1) (one 9 (.u128 1)) = .next t ∧ t.rsp = some ⟨false, 0, 0⟩ ∧ t.wide 0 = some z) ∧
    (one 9 (.u128 1)).wide 1 = some (.u128 1) := ⟨⟨_, _, rfl, rfl, rfl⟩, ⟨_, _, rfl, rfl, rfl⟩, rfl⟩

/-- Values of 128 bits in registers of 192 and of 256 bits, and a 256-bit value. -/
theorem test_witness_WideningMakesOverflowImpossible :
    Width.bits .w128 + 64 ≤ Width.bits .w192 ∧ Width.bits .w192 + 64 ≤ Width.bits .w256 ∧ 7 < 2 ^ Width.bits .w128 ∧
    (two 3 (.u192 7) (.u192 7)).Holds 1 .w192 7 ∧ (two 3 (.u192 7) (.u192 7)).Holds 2 .w192 7 ∧
    (one 3 (.u256 7)).Holds 1 .w256 7 :=
  ⟨by decide, by decide, by decide, ⟨.u192 7, by decide, rfl, by decide⟩, ⟨.u192 7, by decide, rfl, by decide⟩,
    .u256 7, by decide, rfl, by decide⟩

theorem test_witness_ArithmeticLaws :
    ((two 3 (.u192 7) (.u192 0)).Holds 1 .w192 7 ∧ (two 3 (.u192 7) (.u192 0)).Holds 2 .w192 0) ∧
    (one 10 (.u128 7)).Holds 1 .w128 7 ∧ Width.bits .w128 ≤ Width.bits .w192 ∧
    (one 10 (.u128 7)).opa.toNat = divisorValue .d10 ∧
    ∃ t u, exec (.widenAt .w192 0 1) (one 10 (.u128 7)) = .next t ∧ exec (.mulAt .w192 0 0) t = .next u ∧
      u.status.c = false :=
  ⟨⟨⟨.u192 7, by decide, rfl, by decide⟩, .u192 0, by decide, rfl, by decide⟩, ⟨.u128 7, by decide, rfl, by decide⟩,
    by decide, by decide, _, _, rfl, rfl, by decide⟩

theorem test_witness_DivcWritesQuotientAndRemainder :
    (one 0 (.u256 1)).wide 1 = some (.u256 1) ∧ (Wide.u256 1).width = .w256 ∧ (Wide.u256 1).width ≠ .w192 ∧
    (one 0 (.u256 1)).wide 0 = none := by decide

theorem test_witness_DivisionLaw :
    (one 0 (.u128 99)).wide 1 = some (.u128 99) ∧
    ∃ t, exec (.divcAt .w128 0 1 .d10) (one 0 (.u128 99)) = .next t ∧ t.rsp = some ⟨false, 0, 0⟩ := ⟨rfl, _, rfl, rfl⟩

/-- Amounts at the width and one below it. -/
theorem test_witness_ShlShiftsByTheOperand :
    ((one 128 (.u128 1)).wide 1 = some (.u128 1) ∧ (Wide.u128 1).width = .w128 ∧
      Width.bits .w128 ≤ (one 128 (.u128 1)).opa.toNat) ∧
    ¬ Width.bits .w128 ≤ (one 127 (.u128 1)).opa.toNat ∧ (Wide.u128 1).width ≠ .w256 ∧
    (one 127 (.u128 1)).wide 0 = none := by decide

/-- Amounts at the width, one below it, and the largest of R48. -/
theorem test_witness_ShliShiftsByTheImmediate :
    ((one 0 (.u192 1)).wide 1 = some (.u192 1) ∧ (Wide.u192 1).width = .w192 ∧ Width.bits .w192 ≤ 192 ∧
      ¬ Width.bits .w192 ≤ 191) ∧
    1023 < 1024 ∧ (Wide.u192 1).width ≠ .w256 ∧ (one 0 (.u192 1)).wide 0 = none := by decide

/-- Zero, one, and the value with its top bit set. -/
theorem test_witness_ClzCountsTheWholeValue :
    ((one 0 (.u128 0)).wide 1 = some (.u128 0) ∧ (Wide.u128 0).toNat = 0) ∧
    ((one 0 (.u128 1)).wide 1 = some (.u128 1) ∧ (Wide.u128 1).toNat ≠ 0) ∧
    (Wide.u128 0x80000000000000000000000000000000).toNat ≠ 0 ∧ (Wide.u128 1).width ≠ .w192 ∧
    (one 0 (.u128 1)).wide 0 = none := by decide

/-- A top word 0 under a non-zero value, and a top word 1. -/
theorem test_witness_ClztCountsTheTopWord :
    ((one 0 (.u128 1)).wide 1 = some (.u128 1) ∧ (Wide.u128 1).toNat / 2 ^ (Width.bits .w128 - 64) = 0) ∧
    (Wide.u128 0x10000000000000000).toNat / 2 ^ (Width.bits .w128 - 64) ≠ 0 ∧ (Wide.u128 1).width ≠ .w192 ∧
    (one 0 (.u128 1)).wide 0 = none := by decide

theorem test_witness_ShiftAndCountRelations :
    (one 0 (.u192 5)).Holds 1 .w192 5 ∧ 0 < 2 ^ Width.bits .w192 ∧ (5 < 2 ^ Width.bits .w192 ∧ 5 ≠ 0) ∧ 2 ^ 192 - 1 < 2 ^ Width.bits .w192 :=
  ⟨⟨.u192 5, by decide, rfl, by decide⟩, by decide, by decide, by decide⟩

theorem test_witness_DropCountIsLeast : 2 ^ 128 - 1 < 2 ^ 128 ∧ 39 ≤ 39 := by decide

/-- One digit to drop, and none. -/
theorem test_witness_RndNormalizesRoundsAndClassifies :
    ((one 6 (.u128 10000000000000000000000000000000000)).wide 1 = some (.u128 10000000000000000000000000000000000) ∧
      HasFlag .above .above ∧ (one 6 (.u128 10000000000000000000000000000000000)).opa = BitVec.ofInt 64 6 ∧
      IsLeast {k : Nat | (10000000000000000000000000000000000#128).toNat / 10 ^ k < 10 ^ 34 ∧ (0 : Int) ≤ 6 + k} 1) ∧
    ((one 6 (.u128 3)).wide 1 = some (.u128 3) ∧ HasFlag .exact .exact ∧
      IsLeast {k : Nat | (3#128).toNat / 10 ^ k < 10 ^ 34 ∧ (0 : Int) ≤ 6 + k} 0) := by
  refine ⟨⟨by decide, .inr (.inr ⟨rfl, rfl⟩), by decide, ⟨by norm_num, fun k hk => ?_⟩⟩, by decide, .inl ⟨rfl, rfl⟩,
    ⟨by norm_num, fun k _ => Nat.zero_le k⟩⟩
  rcases Nat.eq_zero_or_pos k with rfl | h
  · norm_num at hk
  · exact h

/-- Each check of RND in turn: EMPTY, WIDTH, the three of BADVAL, and TRUNCBUG at the largest significand and the largest
exponent it concerns. -/
theorem test_witness_RndFaultsInOrder :
    State.reset.wide 1 = none ∧
    ((one 0 (.u192 1)).wide 1 = some (.u192 1) ∧ (Wide.u192 1).width ≠ .w128) ∧
    ((one 0x80000000 (.u128 1)).opa ≠ ((one 0x80000000 (.u128 1)).opa.extractLsb' 0 32).signExtend 64) ∧
    ((one 0 (.u128 0)).wide 1 = some (.u128 0) ∧ (0#128).toNat = 0) ∧
    ((one 12287 (.u128 9999999999999999999999999999999999)).wide 1 = some (.u128 9999999999999999999999999999999999) ∧
      HasFlag .below .below ∧ (one 12287 (.u128 9999999999999999999999999999999999)).opa = BitVec.ofInt 64 12287 ∧
      (9999999999999999999999999999999999#128).toNat < 10 ^ 34 ∧
      (12287 : Int) ≤ (one 12287 (.u128 9999999999999999999999999999999999)).config.maxBexp.val) :=
  ⟨by decide, by decide, by decide, by decide, by decide, .inr (.inl ⟨rfl, rfl⟩), by decide, by decide, by decide⟩

theorem test_witness_RndWritesOnlyDestinationAndRres :
    ∃ t r, exec (.rnd 2 1 .exact true) busy = .next t ∧ t.rsp = some r ∧ r.fault = false := ⟨_, _, rfl, rfl, rfl⟩

/-- A FINITE, a ZERO and an OVERFLOW result. -/
theorem test_witness_RndResultRange :
    (∃ t r, exec (.rnd 2 1 .exact true) (one 12287 (.u128 1)) = .next t ∧ t.rsp = some r ∧ r.fault = false ∧
      t.rres.cls = .finite) ∧
    (∃ t r, exec (.rnd 2 1 .exact true) (one 12288 (.u128 0)) = .next t ∧ t.rsp = some r ∧ r.fault = false ∧
      t.rres.cls = .zero) ∧
    ∃ t r, exec (.rnd 2 1 .exact true) (one 12288 (.u128 1)) = .next t ∧ t.rsp = some r ∧ r.fault = false ∧
      t.rres.cls = .overflow :=
  ⟨⟨_, _, rfl, rfl, rfl, rfl⟩, ⟨_, _, rfl, rfl, rfl, rfl⟩, _, _, rfl, rfl, rfl, rfl⟩

/-- An exact magnitude for each flag, and the tie. -/
theorem test_witness_RoundingIsCorrectForEveryAllowedValue :
    15 < 2 ^ 128 ∧ 1 ≤ 1 ∧ Contract .exact 15 15 ∧ Contract .below 15 (31 / 2) ∧ Contract .above 15 (29 / 2) := by
  norm_num [Contract]

theorem test_witness_RdsrAnswersTheSpecialRegister : 15 < 16 ∧ 5 ≤ 5 := by decide

theorem test_witness_NopChangesNothing :
    (offer 0x30000001 0 busy).cmds = [⟨0x30000001, 0⟩] ∧ (0x30000001#32).extractLsb' 24 8 = 0x30#8 ∧
    0x30000001#32 ≠ 0x30000000#32 := by decide

/-- The first and the last legal value of CTRL, the first illegal one, and the register next to CTRL. -/
theorem test_witness_WrsrWritesOnlyCtrl :
    (one 0 (.u128 1)).opa.toNat = modeNumber .halfEven ∧ (one 4 (.u128 1)).opa.toNat = modeNumber .towardNeg ∧
    5 ≤ (one 5 (.u128 1)).opa.toNat ∧ 2 ≠ 1 ∧ 15 < 16 := by decide

theorem test_witness_DigitLoopComputesThePosition : 1 ≤ 1 := by decide

end Sys2Proof.Tests
end

section
/-! PROOF. The state family (10_state.md): what reset leaves, the invariant every step keeps, and which command writes
which register. Every fact about a command goes through `exec_effect`, its list of effects. -/

namespace Sys2Proof.Machine

/-! ### Reading registers after the updates that write them -/

/-- After a write, a register is as before, or it is the one written and holds a value. -/
theorem State.setWide_wide_cases (s : State) (rd r : WReg) (w : Width) (n : Nat) :
    (s.setWide rd w n).wide r = s.wide r ∨ (rd = r ∧ ∃ y, (s.setWide rd w n).wide r = some y) := by
  by_cases h : r = rd
  · subst h
    exact .inr ⟨rfl, _, s.setWide_wide_self r w n⟩
  · exact .inl (s.setWide_wide_of_ne w n h)

/-- The state CLRST leaves differs in STATUS alone: mask bit 1 clears OVS, mask bit 0 clears ERR and ECAUSE
(45_system.md R113). -/
theorem State.clear_eq {m : BitVec 2} {s t u : State} (ht : t = if m.getLsbD 0 then s.clearFault else s)
    (hu : u = if m.getLsbD 1 then t.clearOvs else t) :
    u = { s with status := ⟨s.status.c, s.status.ovs && !m.getLsbD 1, s.status.err && !m.getLsbD 0,
      if m.getLsbD 0 then none else s.status.ecause⟩ } := by
  subst ht hu
  cases m.getLsbD 0 <;> cases m.getLsbD 1 <;> simp [State.clearFault, State.clearOvs]

/-! ### What a step can do -/

/-- A step is idle, or runs the command its word decodes to, or enters the fault ILLEGAL (20_memory.md R33). -/
theorem step_cases {s t : State} (h : step s = .next t) :
    (s.cmds = [] ∧ t = s) ∨
    ∃ c rest, s.cmds = c :: rest ∧
      ((∃ i, decode c.insn = .ok i ∧ Effect i (s.accept c rest) t) ∨
       ((∃ e, decode c.insn = .error e) ∧ t = (s.accept c rest).raise .illegal)) := by
  unfold step at h
  split at h
  case h_1 hcmds =>
    cases h
    exact .inl ⟨hcmds, rfl⟩
  case h_2 c rest hcmds =>
    refine .inr ⟨c, rest, hcmds, ?_⟩
    split at h
    case h_1 i hdec => exact .inl ⟨i, hdec, exec_effect h⟩
    case h_2 e hdec =>
      cases h
      exact .inr ⟨⟨e, hdec⟩, rfl⟩

/-! ### The exponent of RND -/

/-- An exponent in the non-negative half of 32 bits survives its encoding (10_state.md R18). -/
theorem toInt_ofInt_of_exponent {e : Int} (h0 : 0 ≤ e) (h : e < 2 ^ 31) : (BitVec.ofInt 32 e).toInt = e :=
  BitVec.toInt_ofInt_eq_self (by decide) (by omega) (by omega)

/-- Dropping digits brings the exponent to 0 or above (44_round.md R96). -/
theorem add_dropCount_nonneg (s : Nat) (e : Int) : 0 ≤ e + dropCount s e := by
  unfold dropCount
  omega

/-- Renormalization never lowers the exponent (44_round.md R100). -/
theorem le_renormalize_exp (q : Nat) (e : Int) : e ≤ (renormalize q e).2 := by
  unfold renormalize
  split
  · exact Int.le_add_one le_rfl
  · exact le_rfl

/-- The final exponent of RND is not negative (44_round.md R96, R100). -/
theorem reduce_exp_nonneg {maxBexp : Nat} {m : RoundMode} {neg : Bool} {t : TruncFlag} {s q2 : Nat} {e e2 : Int}
    (h : reduce maxBexp m neg t s e = .ok (q2, e2)) : 0 ≤ e2 := by
  have hk := add_dropCount_nonneg s e
  by_cases hzero : dropCount s e = 0
  · rw [reduce_of_dropCount_eq_zero hzero] at h
    split at h <;> cases h
    simpa [hzero] using hk
  · rw [reduce_of_dropCount_ne_zero hzero, Except.ok.injEq] at h
    calc 0 ≤ e + dropCount s e := hk
      _ ≤ (renormalize (roundedQuotient m neg t s (dropCount s e)) (e + dropCount s e)).2 := le_renormalize_exp _ _
      _ = e2 := by rw [h]

/-- A classified result lies in the range of its class, for every MAX_BEXP the parameter allows (44_round.md R101 to
R103). -/
theorem classify_inRange {maxBexp : Nat} (hmax : maxBexp ≤ 2 ^ 31 - 2) (neg : Bool) (q2 : Nat) {e2 : Int}
    (he : 0 ≤ e2) : (classify maxBexp neg q2 e2).InRange maxBexp := by
  unfold classify
  split_ifs with hzero hover
  · have hexp : (BitVec.ofInt 32 (min e2 maxBexp)).toInt = min e2 maxBexp :=
      toInt_ofInt_of_exponent (by omega) (by omega)
    simp only [RRes.InRange, hexp]
    omega
  · have hexp : (BitVec.ofInt 32 (min e2 (2 ^ 31 - 1))).toInt = min e2 (2 ^ 31 - 1) :=
      toInt_ofInt_of_exponent (by omega) (by omega)
    simp only [RRes.InRange, hexp]
    omega
  · have hexp : (BitVec.ofInt 32 e2).toInt = e2 := toInt_ofInt_of_exponent he (by omega)
    simp only [RRes.InRange, hexp]
    omega

/-! ### Every operation keeps the invariant -/

/-- A response that no fault made is well formed (20_memory.md R31). -/
theorem State.Good.answer {s : State} (h : s.Good) (v : Word) : (s.answer v).Good where
  ecause := h.ecause
  rem := h.rem
  rres := h.rres
  rsp r hr := by
    cases hr
    exact ⟨fun _ => rfl, fun hf => by cases hf⟩

/-- The cause codes are 1 to 6 (60_exceptions.md R120). -/
theorem Cause.code_range (c : Cause) : 1 ≤ c.code.toNat ∧ c.code.toNat ≤ 6 := by
  cases c <;> decide

/-- Fault entry sets ERR and leaves a cause in ECAUSE (60_exceptions.md R124). -/
theorem State.Good.raise {s : State} (h : s.Good) (c : Cause) : (s.raise c).Good where
  ecause := by
    cases herr : s.status.err with
    | false => simp [State.EcauseMatchesErr, herr]
    | true => simpa [State.EcauseMatchesErr, herr] using h.ecause
  rem := h.rem
  rres := h.rres
  rsp r hr := by
    cases hr
    exact ⟨fun hf => Bool.noConfusion hf, fun _ => ⟨rfl, c.code_range⟩⟩

theorem State.Good.accept {s : State} (h : s.Good) (c : Command) (rest : List Command) : (s.accept c rest).Good :=
  ⟨h.ecause, h.rem, h.rres, h.rsp⟩

theorem State.Good.setWide {s : State} (h : s.Good) (rd : WReg) (w : Width) (n : Nat) : (s.setWide rd w n).Good :=
  ⟨h.ecause, h.rem, h.rres, h.rsp⟩

theorem State.Good.setCarry {s : State} (h : s.Good) (lost : Bool) : (s.setCarry lost).Good :=
  ⟨h.ecause, h.rem, h.rres, h.rsp⟩

theorem State.Good.setRm {s : State} (h : s.Good) (m : RoundMode) : (s.setRm m).Good :=
  ⟨h.ecause, h.rem, h.rres, h.rsp⟩

theorem State.Good.clearOvs {s : State} (h : s.Good) : s.clearOvs.Good :=
  ⟨h.ecause, h.rem, h.rres, h.rsp⟩

theorem State.Good.clearFault {s : State} (h : s.Good) : s.clearFault.Good :=
  ⟨by simp [State.EcauseMatchesErr], h.rem, h.rres, h.rsp⟩

/-- A remainder by a divisor of the table fits REM and is below the largest divisor (42_divide.md R75, R76). -/
theorem State.Good.setRem_mod {s : State} (h : s.Good) (n : Nat) (c : Divisor) :
    (s.setRem (BitVec.ofNat 64 (n % divisorValue c))).Good where
  ecause := h.ecause
  rem := by
    have hmod : n % divisorValue c < divisorValue c := Nat.mod_lt n (divisorValue_pos c)
    have hmax : divisorValue c ≤ 10 ^ 19 := divisorValue_le c
    rw [State.RemBelowDivisor, State.setRem_rem, BitVec.toNat_ofNat]
    omega
  rres := h.rres
  rsp := h.rsp

theorem State.Good.setRres {s : State} (h : s.Good) {r : RRes} (hr : r.InRange s.config.maxBexp.val) :
    (s.setRres r).Good :=
  ⟨h.ecause, h.rem, hr, h.rsp⟩

/-- Every effect of a command keeps the invariant. -/
theorem Effect.good {i : Instr} {s t : State} (h : Effect i s t) (hs : s.Good) : t.Good := by
  cases h with
  | fault c => exact hs.raise c
  | write rd w n => exact (hs.setWide rd w n).answer 0
  | writeCarry rd w n => exact ((hs.setWide rd w n).setCarry (lostBits w n)).answer 0
  | divide rd w n c => exact ((hs.setWide rd w (n / divisorValue c)).setRem_mod n c).answer 0
  | answer v => exact hs.answer v
  | round rd rs1 tf neg x t q2 e2 hi hx hw hf hq =>
    have hrange := classify_inRange (Nat.le_of_lt_succ s.config.maxBexp.isLt) neg q2 (reduce_exp_nonneg hq)
    exact ((hs.setWide rd .w128 q2).setRres hrange).answer _
  | mode m => exact (hs.setRm m).answer 0
  | clear m hi t ht u hu =>
    have htGood : t.Good := by
      subst ht
      split
      · exact hs.clearFault
      · exact hs
    have huGood : u.Good := by
      subst hu
      split
      · exact htGood.clearOvs
      · exact htGood
    exact huGood.answer 0

/-! ### Which wide register a command writes -/

/-- A command leaves a wide register as it was, or the register is its destination and holds a value (10_state.md R10,
R12). -/
theorem Effect.wide_cases {i : Instr} {s t : State} (h : Effect i s t) (r : WReg) :
    t.wide r = s.wide r ∨ (i.dest = some r ∧ ∃ y, t.wide r = some y) := by
  have hwrite : ∀ rd w n, i.dest = some rd →
      (s.setWide rd w n).wide r = s.wide r ∨ (i.dest = some r ∧ ∃ y, (s.setWide rd w n).wide r = some y) := by
    intro rd w n hd
    rcases s.setWide_wide_cases rd r w n with hsame | ⟨hrd, hy⟩
    · exact .inl hsame
    · exact .inr ⟨hrd ▸ hd, hy⟩
  cases h with
  | fault c => exact .inl rfl
  | write rd w n hd => exact hwrite rd w n hd
  | writeCarry rd w n hd => exact hwrite rd w n hd
  | divide rd w n c hd => exact hwrite rd w _ hd
  | answer v => exact .inl rfl
  | round rd rs1 tf neg x t q2 e2 hi => exact hwrite rd .w128 q2 (by rw [hi]; rfl)
  | mode m => exact .inl rfl
  | clear m hi t ht u hu => exact .inl (by rw [State.clear_eq ht hu]; rfl)

/-! ### Which command writes which special register -/

/-- C is written by ADD, MUL and NARROW alone (10_state.md R15). -/
theorem Effect.carry_eq {i : Instr} {s t : State} (h : Effect i s t) (hi : i.writesCarry = false) :
    t.status.c = s.status.c := by
  cases h with
  | writeCarry rd w n hd hc => rw [hi] at hc; cases hc
  | clear m hi t ht u hu => rw [State.clear_eq ht hu]; rfl
  | _ => rfl

/-- OVS becomes 1 with C only, and 0 by CLRST with mask bit 1 only (10_state.md R15). -/
theorem Effect.ovs_change {i : Instr} {s t : State} (h : Effect i s t) (hne : t.status.ovs ≠ s.status.ovs) :
    (t.status.ovs = true ∧ i.writesCarry = true ∧ t.status.c = true) ∨
      ∃ m, i = .clrst m ∧ m.getLsbD 1 = true ∧ t.status.ovs = false := by
  cases h with
  | writeCarry rd w n hd hc =>
    have hlost : lostBits w n = true := by
      cases hl : lostBits w n with
      | false => exact absurd (by simp [hl]) hne
      | true => rfl
    exact .inl ⟨by simp [hlost], hc, hlost⟩
  | clear m hi t ht u hu =>
    rw [State.clear_eq ht hu] at hne ⊢
    have hm : m.getLsbD 1 = true := by
      cases hb : m.getLsbD 1 with
      | false => exact absurd (by simp only [State.answer_status, hb, Bool.not_false, Bool.and_true]) hne
      | true => rfl
    exact .inr ⟨m, hi, hm, by simp only [State.answer_status, hm, Bool.not_true, Bool.and_false]⟩
  | _ => exact absurd rfl hne

/-- CTRL.RM is written by WRSR of CTRL alone (10_state.md R16). -/
theorem Effect.rm_eq {i : Instr} {s t : State} (h : Effect i s t) (hi : i ≠ .wrsr 1) : t.rm = s.rm := by
  cases h with
  | mode m hm => exact absurd hm hi
  | clear m hi t ht u hu => rw [State.clear_eq ht hu]; rfl
  | _ => rfl

/-- REM is written by DIVC alone (10_state.md R17). -/
theorem Effect.rem_eq {i : Instr} {s t : State} (h : Effect i s t) (hi : i.isDivc = false) : t.rem = s.rem := by
  cases h with
  | divide rd w n c hd hc hv => rw [hi] at hv; cases hv
  | clear m hi t ht u hu => rw [State.clear_eq ht hu]; rfl
  | _ => rfl

/-- RRES is written by RND alone (10_state.md R18). -/
theorem Effect.rres_eq {i : Instr} {s t : State} (h : Effect i s t) (hi : i.isRnd = false) : t.rres = s.rres := by
  cases h with
  | round rd rs1 tf neg x t q2 e2 hr => subst hr; cases hi
  | clear m hi t ht u hu => rw [State.clear_eq ht hu]; rfl
  | _ => rfl

/-! ### The obligations -/

/-- Settles O3, by the effect of the command the step runs, and by fault entry for a word that does not decode. -/
theorem everyStepKeepsGood : Obligations.EveryStepKeepsGood := by
  intro s t hs hstep
  rcases step_cases hstep with ⟨_, rfl⟩ | ⟨c, rest, _, ⟨i, _, heff⟩ | ⟨_, rfl⟩⟩
  · exact hs
  · exact heff.good (hs.accept c rest)
  · exact (hs.accept c rest).raise .illegal

/-- Settles O4, from what a command can do to one wide register. -/
theorem tagsNeverReturnToEmpty : Obligations.TagsNeverReturnToEmpty := by
  intro i s t h
  refine ⟨fun r x hx => ?_, fun r hr => ?_⟩
  · rcases (exec_effect h).wide_cases r with hsame | ⟨_, hy⟩
    · exact ⟨x, hsame.trans hx⟩
    · exact hy
  · rcases (exec_effect h).wide_cases r with hsame | ⟨hdest, _⟩
    · exact hsame
    · exact absurd hdest hr

/-- Settles O19, register by register. -/
theorem specialRegistersHaveOneWriter : Obligations.SpecialRegistersHaveOneWriter := by
  intro i s t h
  have heff := exec_effect h
  exact ⟨heff.carry_eq, heff.ovs_change, heff.rm_eq, heff.rem_eq, heff.rres_eq, heff.samePort⟩

/-- TAGS reads 0 after reset (10_state.md R19, R22). -/
theorem State.reset_tagsWord : State.reset.tagsWord = 0 := by
  simp [State.tagsWord, tagCode]

/-- Settles O1, with the EMPTY registers and the TAGS view from their lemmas. -/
theorem resetLeavesTheResetValues : Obligations.ResetLeavesTheResetValues :=
  ⟨State.reset_wide, rfl, rfl, rfl, rfl, rfl, rfl, rfl, rfl, rfl, rfl, State.reset_tagsWord⟩

end Sys2Proof.Machine
end

section
/-! PROOF. The memory family (20_memory.md): what a step and a run do with the commands offered, and which parts of the
state a command's result depends on. The two-state facts are said once for every command by `exec_sameResult`. -/

namespace Sys2Proof.Machine

/-! ### The step, case by case -/

/-- With no command offered a step is idle. -/
theorem step_of_cmds_nil {s : State} (h : s.cmds = []) : step s = .next s := by
  simp only [step, h]

/-- A word that decodes runs its instruction on the state that accepted the command (20_memory.md R33). -/
theorem step_of_decode_ok {s : State} {c : Command} {rest : List Command} {i : Instr} (h : s.cmds = c :: rest)
    (hdec : decode c.insn = .ok i) : step s = exec i (s.accept c rest) := by
  simp only [step, h, hdec]

/-- A word that does not decode enters the fault ILLEGAL (30_encoding.md R52). -/
theorem step_of_decode_error {s : State} {c : Command} {rest : List Command} {e : Illegal} (h : s.cmds = c :: rest)
    (hdec : decode c.insn = .error e) : step s = .next ((s.accept c rest).raise .illegal) := by
  simp only [step, h, hdec, State.settle_error]

/-- Every step has a next state (60_exceptions.md R123). -/
theorem step_next (s : State) : ∃ t, step s = .next t := by
  cases hcmds : s.cmds with
  | nil => exact ⟨s, step_of_cmds_nil hcmds⟩
  | cons c rest =>
    cases hdec : decode c.insn with
    | ok i =>
      obtain ⟨t, ht⟩ := exec_next i (s.accept c rest)
      exact ⟨t, (step_of_decode_ok hcmds hdec).trans ht⟩
    | error e => exact ⟨_, step_of_decode_error hcmds hdec⟩

/-- A step that accepts a command takes it off the port, holds its operand, keeps MAX_BEXP and answers. -/
theorem step_answers {s t : State} {c : Command} {rest : List Command} (hcmds : s.cmds = c :: rest)
    (h : step s = .next t) : SamePort (s.accept c rest) t ∧ ∃ r, t.rsp = some r := by
  rcases step_cases h with ⟨hnil, _⟩ | ⟨c', rest', hcons, hend⟩
  · rw [hcmds] at hnil
    cases hnil
  · rw [hcmds] at hcons
    cases hcons
    rcases hend with ⟨i, _, heff⟩ | ⟨_, rfl⟩
    · obtain ⟨r, hr, _⟩ := heff.rsp
      exact ⟨heff.samePort, r, hr⟩
    · exact ⟨⟨rfl, rfl, rfl⟩, _, rfl⟩

/-- A step drops the first of the commands offered. -/
theorem step_cmds {s t : State} (h : step s = .next t) : t.cmds = s.cmds.drop 1 := by
  cases hcmds : s.cmds with
  | nil =>
    rw [step_of_cmds_nil hcmds] at h
    cases h
    exact hcmds
  | cons c rest =>
    obtain ⟨⟨_, hrest, _⟩, _⟩ := step_answers hcmds h
    exact hrest

/-- A run that starts with a step to `t` goes on from `t`. -/
theorem core_run_succ {s t : State} (n : Nat) (h : step s = .next t) :
    Sys2Proof.core.run (n + 1) s = Sys2Proof.core.run n t := by
  have hcore : Sys2Proof.core.step s = .next t := h
  simp only [Host.Core.run, hcore]

/-! ### Operand checks in two states that agree on what is read -/

theorem State.reqAny_congr {s s' : State} {r : WReg} (h : s'.wide r = s.wide r) : s'.reqAny r = s.reqAny r := by
  simp only [State.reqAny, h]

theorem State.req_congr {s s' : State} {r : WReg} (w : Width) (h : s'.wide r = s.wide r) : s'.req r w = s.req r w := by
  simp only [State.req, h]

theorem State.reqBoth_congr {s s' : State} {r1 r2 : WReg} (w : Width) (h1 : s'.wide r1 = s.wide r1)
    (h2 : s'.wide r2 = s.wide r2) : s'.reqBoth r1 r2 w = s.reqBoth r1 r2 w := by
  simp only [State.reqBoth, h1, h2]

theorem State.reqWord_congr {s s' : State} {r : WReg} (i : Nat) (h : s'.wide r = s.wide r) :
    s'.reqWord r i = s.reqWord r i := by
  simp only [State.reqWord, State.reqAny_congr h]

/-! ### The same operands -/

/-- `s` and `s'` agree on everything command `i` reads: its source registers, `opa`, for RND also CTRL.RM and MAX_BEXP,
and for RDSR the special register it names (20_memory.md R40, 45_system.md R111). -/
structure SameOperands (i : Instr) (s s' : State) : Prop where
  /-- The source registers. -/
  wide : ∀ r ∈ i.sources, s'.wide r = s.wide r
  /-- The operand that came with the command. -/
  opa : s'.opa = s.opa
  /-- What RND reads beside. -/
  rnd : i.isRnd = true → s'.rm = s.rm ∧ s'.config = s.config
  /-- What RDSR reads. -/
  special : ∀ sr, i = .rdsr sr → s'.specialWord sr = s.specialWord sr

/-- The response to an earlier command is no operand. -/
theorem sameOperands_answer (i : Instr) (s : State) (v : Word) : SameOperands i s (s.answer v) where
  wide _ _ := rfl
  opa := rfl
  rnd _ := ⟨rfl, rfl⟩
  special _ _ := rfl

/-! ### The same result -/

/-- Two completions of command `i` agree on the response and on each register that is the command's to write. -/
structure SameWrites (i : Instr) (t t' : State) : Prop where
  /-- The response. -/
  rsp : t'.rsp = t.rsp
  /-- The destination. -/
  dest : ∀ rd, i.dest = some rd → t'.wide rd = t.wide rd
  /-- C, for ADD, MUL and NARROW. -/
  carry : i.writesCarry = true → t'.status.c = t.status.c
  /-- REM, for DIVC. -/
  rem : i.isDivc = true → t'.rem = t.rem
  /-- RRES, for RND. -/
  rres : i.isRnd = true → t'.rres = t.rres

/-- The ends of two bodies of command `i` show the same result: the same cause, or two completions with the same
writes. -/
inductive SameResult (i : Instr) : Except Cause State → Except Cause State → Prop where
  /-- Both are squashed, with one cause. -/
  | fault (c : Cause) : SameResult i (.error c) (.error c)
  /-- Both complete. -/
  | done {t t' : State} (h : SameWrites i t t') : SameResult i (.ok t) (.ok t')

/-- RDW, CLZ, CLZT, NOP, RDSR, WRSR, CLRST: the response is all there is to compare. -/
theorem SameResult.of_rsp {i : Instr} {t t' : State} (hd : i.dest = none) (hc : i.writesCarry = false)
    (hv : i.isDivc = false) (hr : i.isRnd = false) (rsp : t'.rsp = t.rsp) : SameResult i (.ok t) (.ok t') :=
  .done ⟨rsp, by simp [hd], by simp [hc], by simp [hv], by simp [hr]⟩

/-- SETW, INSW, WIDEN, SHL, SHLI: the same value written and answered. -/
theorem SameResult.write {i : Instr} {rd : WReg} {w : Width} {n : Nat} {v : Word} (s s' : State) (hd : i.dest = some rd)
    (hc : i.writesCarry = false) (hv : i.isDivc = false) (hr : i.isRnd = false) :
    SameResult i (.ok ((s.setWide rd w n).answer v)) (.ok ((s'.setWide rd w n).answer v)) :=
  .done ⟨rfl, by simp [hd], by simp [hc], by simp [hv], by simp [hr]⟩

/-- NARROW, ADD, MUL: the same value and flag written. -/
theorem SameResult.writeCarry {i : Instr} {rd : WReg} {w : Width} {n : Nat} {l : Bool} {v : Word} (s s' : State)
    (hd : i.dest = some rd) (hv : i.isDivc = false) (hr : i.isRnd = false) :
    SameResult i (.ok (((s.setWide rd w n).setCarry l).answer v)) (.ok (((s'.setWide rd w n).setCarry l).answer v)) :=
  .done ⟨rfl, by simp [hd], fun _ => rfl, by simp [hv], by simp [hr]⟩

/-- DIVC: the same quotient and remainder written. -/
theorem SameResult.divide {i : Instr} {rd : WReg} {w : Width} {n : Nat} {m v : Word} (s s' : State)
    (hd : i.dest = some rd) (hc : i.writesCarry = false) (hr : i.isRnd = false) :
    SameResult i (.ok (((s.setWide rd w n).setRem m).answer v)) (.ok (((s'.setWide rd w n).setRem m).answer v)) :=
  .done ⟨rfl, by simp [hd], by simp [hc], fun _ => rfl, by simp [hr]⟩

/-- RND: the same significand and RRES written. -/
theorem SameResult.round {i : Instr} {rd : WReg} {w : Width} {n : Nat} {r : RRes} {v : Word} (s s' : State)
    (hd : i.dest = some rd) (hc : i.writesCarry = false) (hv : i.isDivc = false) :
    SameResult i (.ok (((s.setWide rd w n).setRres r).answer v)) (.ok (((s'.setWide rd w n).setRres r).answer v)) :=
  .done ⟨rfl, by simp [hd], by simp [hc], by simp [hv], fun _ => rfl⟩

/-! ### Bodies in two states with the same operands -/

section Bodies

variable {s s' : State} {w : Width} {rd rs1 rs2 : WReg}

theorem setwBody_sameResult (ho : s'.opa = s.opa) :
    SameResult (.setwAt w rd) (setwBody w rd s) (setwBody w rd s') := by
  simp only [setwBody, ho]
  cases w <;> exact .write s s' rfl rfl rfl rfl

theorem inswBody_sameResult {j : Nat} (hw : s'.wide rd = s.wide rd) (ho : s'.opa = s.opa) :
    SameResult (.insw rd j) (inswBody rd j s) (inswBody rd j s') := by
  simp only [inswBody, State.reqWord_congr j hw, ho]
  cases s.reqWord rd j with
  | error c => exact .fault c
  | ok x => exact .write s s' rfl rfl rfl rfl

theorem rdwBody_sameResult {j : Nat} (hw : s'.wide rs1 = s.wide rs1) :
    SameResult (.rdw rs1 j) (rdwBody rs1 j s) (rdwBody rs1 j s') := by
  simp only [rdwBody, State.reqWord_congr j hw]
  cases s.reqWord rs1 j with
  | error c => exact .fault c
  | ok x => exact .of_rsp rfl rfl rfl rfl rfl

theorem widenBody_sameResult (hw : s'.wide rs1 = s.wide rs1) :
    SameResult (.widenAt w rd rs1) (widenBody w rd rs1 s) (widenBody w rd rs1 s') := by
  simp only [widenBody, State.reqAny_congr hw]
  cases s.reqAny rs1 with
  | error c => exact .fault c
  | ok x =>
    by_cases hbits : w.bits < x.width.bits
    · simp only [if_pos hbits]
      exact .fault .width
    · simp only [if_neg hbits]
      cases w <;> exact .write s s' rfl rfl rfl rfl

theorem narrowBody_sameResult (hw : s'.wide rs1 = s.wide rs1) :
    SameResult (.narrowAt w rd rs1) (narrowBody w rd rs1 s) (narrowBody w rd rs1 s') := by
  simp only [narrowBody, State.reqAny_congr hw]
  cases s.reqAny rs1 with
  | error c => exact .fault c
  | ok x =>
    by_cases hbits : x.width.bits < w.bits
    · simp only [if_pos hbits]
      exact .fault .width
    · simp only [if_neg hbits]
      cases w <;> exact .writeCarry s s' rfl rfl rfl

theorem addBody_sameResult (h1 : s'.wide rs1 = s.wide rs1) (h2 : s'.wide rs2 = s.wide rs2) :
    SameResult (.addAt w rd rs1 rs2) (addBody w rd rs1 rs2 s) (addBody w rd rs1 rs2 s') := by
  simp only [addBody, State.reqBoth_congr w h1 h2]
  cases s.reqBoth rs1 rs2 w with
  | error c => exact .fault c
  | ok p => cases w <;> exact .writeCarry s s' rfl rfl rfl

theorem mulBody_sameResult (hw : s'.wide rs1 = s.wide rs1) (ho : s'.opa = s.opa) :
    SameResult (.mulAt w rd rs1) (mulBody w rd rs1 s) (mulBody w rd rs1 s') := by
  simp only [mulBody, State.req_congr w hw, ho]
  cases s.req rs1 w with
  | error c => exact .fault c
  | ok x => cases w <;> exact .writeCarry s s' rfl rfl rfl

theorem divcBody_sameResult {d : Divisor} (hw : s'.wide rs1 = s.wide rs1) :
    SameResult (.divcAt w rd rs1 d) (divcBody w rd rs1 d s) (divcBody w rd rs1 d s') := by
  simp only [divcBody, State.req_congr w hw]
  cases s.req rs1 w with
  | error c => exact .fault c
  | ok x => cases w <;> exact .divide s s' rfl rfl rfl

/-- SHL and SHLI share a body, so the instruction is named by what it writes. -/
theorem shiftBody_sameResult {i : Instr} {n : Nat} (hw : s'.wide rs1 = s.wide rs1) (hd : i.dest = some rd)
    (hc : i.writesCarry = false) (hv : i.isDivc = false) (hr : i.isRnd = false) :
    SameResult i (shiftBody w rd rs1 n s) (shiftBody w rd rs1 n s') := by
  simp only [shiftBody, State.req_congr w hw]
  cases s.req rs1 w with
  | error c => exact .fault c
  | ok x => exact .write s s' hd hc hv hr

theorem shlBody_sameResult (hw : s'.wide rs1 = s.wide rs1) (ho : s'.opa = s.opa) :
    SameResult (.shlAt w rd rs1) (shlBody w rd rs1 s) (shlBody w rd rs1 s') := by
  simp only [shlBody, ho]
  cases w <;> exact shiftBody_sameResult hw rfl rfl rfl rfl

theorem shliBody_sameResult {n : Nat} (hw : s'.wide rs1 = s.wide rs1) :
    SameResult (.shliAt w rd rs1 n) (shliBody w rd rs1 n s) (shliBody w rd rs1 n s') := by
  cases w <;> exact shiftBody_sameResult hw rfl rfl rfl rfl

theorem clzBody_sameResult (hw : s'.wide rs1 = s.wide rs1) :
    SameResult (.clzAt w rs1) (clzBody w rs1 s) (clzBody w rs1 s') := by
  simp only [clzBody, State.req_congr w hw]
  cases s.req rs1 w with
  | error c => exact .fault c
  | ok x => cases w <;> exact .of_rsp rfl rfl rfl rfl rfl

theorem clztBody_sameResult (hw : s'.wide rs1 = s.wide rs1) :
    SameResult (.clztAt w rs1) (clztBody w rs1 s) (clztBody w rs1 s') := by
  simp only [clztBody, State.req_congr w hw]
  cases s.req rs1 w with
  | error c => exact .fault c
  | ok x => cases w <;> exact .of_rsp rfl rfl rfl rfl rfl

/-- RND reads CTRL.RM and MAX_BEXP beside its source and `opa` (44_round.md R105). -/
theorem rndBody_sameResult {tf : TruncField} {neg : Bool} (hw : s'.wide rs1 = s.wide rs1) (ho : s'.opa = s.opa)
    (hm : s'.rm = s.rm) (hmax : s'.config = s.config) :
    SameResult (.rnd rd rs1 tf neg) (rndBody rd rs1 tf neg s) (rndBody rd rs1 tf neg s') := by
  simp only [rndBody, State.req_congr .w128 hw, ho, hm, hmax]
  cases s.req rs1 .w128 with
  | error c => exact .fault c
  | ok x =>
    cases hflag : rndFlag tf s.opa x with
    | error c => simpa only [hflag] using .fault c
    | ok t =>
      cases hred : reduce s.config.maxBexp.val s.rm neg t x (signed32 s.opa) with
      | error c => simpa only [hflag, hred] using .fault c
      | ok p => simpa only [hflag, hred] using .round s s' rfl rfl rfl

theorem rdsrBody_sameResult {sr : Nat} (h : s'.specialWord sr = s.specialWord sr) :
    SameResult (.rdsr sr) (rdsrBody sr s) (rdsrBody sr s') := by
  simp only [rdsrBody, h]
  cases s.specialWord sr with
  | none => exact .fault .index
  | some v => exact .of_rsp rfl rfl rfl rfl rfl

theorem wrsrBody_sameResult {sr : Nat} (ho : s'.opa = s.opa) :
    SameResult (.wrsr sr) (wrsrBody sr s) (wrsrBody sr s') := by
  simp only [wrsrBody, ho]
  by_cases hsr : sr ≠ 1
  · simp only [if_pos hsr]
    exact .fault .index
  · simp only [if_neg hsr]
    by_cases hhigh : s.opa.extractLsb' 3 61 ≠ 0
    · simp only [if_pos hhigh]
      exact .fault .badval
    · simp only [if_neg hhigh]
      cases RoundMode.ofCode (s.opa.extractLsb' 0 3) with
      | none => exact .fault .badval
      | some m => exact .of_rsp rfl rfl rfl rfl rfl

theorem clrstBody_sameResult {m : BitVec 2} : SameResult (.clrst m) (clrstBody m s) (clrstBody m s') :=
  .of_rsp rfl rfl rfl rfl rfl

end Bodies

/-! ### Commands in two states with the same operands -/

/-- In two states with the same operands, a command ends bodies with the same result. -/
theorem exec_sameResult {i : Instr} {s s' : State} (h : SameOperands i s s') :
    ∃ b b', exec i s = s.settle b ∧ exec i s' = s'.settle b' ∧ SameResult i b b' := by
  obtain ⟨hwide, hopa, hrnd, hspecial⟩ := h
  rcases instr_shape i with ⟨w, rd, rfl⟩ | ⟨rd, j, rfl⟩ | ⟨rs, j, rfl⟩ | ⟨w, rd, rs, rfl⟩ | ⟨w, rd, rs, rfl⟩ |
    ⟨w, rd, rs, rt, rfl⟩ | ⟨w, rd, rs, rfl⟩ | ⟨w, rd, rs, d, rfl⟩ | ⟨w, rd, rs, rfl⟩ | ⟨w, rd, rs, n, rfl⟩ |
    ⟨w, rs, rfl⟩ | ⟨w, rs, rfl⟩ | ⟨rd, rs, tf, neg, rfl⟩ | rfl | ⟨sr, rfl⟩ | ⟨sr, rfl⟩ | ⟨m, rfl⟩
  · exact ⟨_, _, exec_setwAt w rd s, exec_setwAt w rd s', setwBody_sameResult hopa⟩
  · exact ⟨_, _, exec_insw rd j s, exec_insw rd j s', inswBody_sameResult (hwide rd (.head _)) hopa⟩
  · exact ⟨_, _, exec_rdw rs j s, exec_rdw rs j s', rdwBody_sameResult (hwide rs (.head _))⟩
  · have hrs : s'.wide rs = s.wide rs := hwide rs (by cases w <;> exact .head _)
    exact ⟨_, _, exec_widenAt w rd rs s, exec_widenAt w rd rs s', widenBody_sameResult hrs⟩
  · have hrs : s'.wide rs = s.wide rs := hwide rs (by cases w <;> exact .head _)
    exact ⟨_, _, exec_narrowAt w rd rs s, exec_narrowAt w rd rs s', narrowBody_sameResult hrs⟩
  · have hrs : s'.wide rs = s.wide rs := hwide rs (by cases w <;> exact .head _)
    have hrt : s'.wide rt = s.wide rt := hwide rt (by cases w <;> exact .tail _ (.head _))
    exact ⟨_, _, exec_addAt w rd rs rt s, exec_addAt w rd rs rt s', addBody_sameResult hrs hrt⟩
  · have hrs : s'.wide rs = s.wide rs := hwide rs (by cases w <;> exact .head _)
    exact ⟨_, _, exec_mulAt w rd rs s, exec_mulAt w rd rs s', mulBody_sameResult hrs hopa⟩
  · have hrs : s'.wide rs = s.wide rs := hwide rs (by cases w <;> exact .head _)
    exact ⟨_, _, exec_divcAt w rd rs d s, exec_divcAt w rd rs d s', divcBody_sameResult hrs⟩
  · have hrs : s'.wide rs = s.wide rs := hwide rs (by cases w <;> exact .head _)
    exact ⟨_, _, exec_shlAt w rd rs s, exec_shlAt w rd rs s', shlBody_sameResult hrs hopa⟩
  · have hrs : s'.wide rs = s.wide rs := hwide rs (by cases w <;> exact .head _)
    exact ⟨_, _, exec_shliAt w rd rs n s, exec_shliAt w rd rs n s', shliBody_sameResult hrs⟩
  · have hrs : s'.wide rs = s.wide rs := hwide rs (by cases w <;> exact .head _)
    exact ⟨_, _, exec_clzAt w rs s, exec_clzAt w rs s', clzBody_sameResult hrs⟩
  · have hrs : s'.wide rs = s.wide rs := hwide rs (by cases w <;> exact .head _)
    exact ⟨_, _, exec_clztAt w rs s, exec_clztAt w rs s', clztBody_sameResult hrs⟩
  · obtain ⟨hrm, hmax⟩ := hrnd rfl
    exact ⟨_, _, exec_rnd rd rs tf neg s, exec_rnd rd rs tf neg s',
      rndBody_sameResult (hwide rs (.head _)) hopa hrm hmax⟩
  · exact ⟨_, _, exec_nop s, exec_nop s', .of_rsp rfl rfl rfl rfl rfl⟩
  · exact ⟨_, _, exec_rdsr sr s, exec_rdsr sr s', rdsrBody_sameResult (hspecial sr rfl)⟩
  · exact ⟨_, _, exec_wrsr sr s, exec_wrsr sr s', wrsrBody_sameResult hopa⟩
  · exact ⟨_, _, exec_clrst m s, exec_clrst m s', clrstBody_sameResult⟩

/-- Two states a command leaves, from states with the same operands: one fault entered on both, or two completions with
the same writes. -/
theorem exec_sameResult_cases {i : Instr} {s s' t t' : State} (h : SameOperands i s s') (ht : exec i s = .next t)
    (ht' : exec i s' = .next t') :
    (∃ c, t = s.raise c ∧ t' = s'.raise c) ∨ SameWrites i t t' := by
  obtain ⟨b, b', hb, hb', hsame⟩ := exec_sameResult h
  rw [hb] at ht
  rw [hb'] at ht'
  cases hsame with
  | fault c =>
    cases ht
    cases ht'
    exact .inl ⟨c, rfl, rfl⟩
  | done hwrites =>
    cases ht
    cases ht'
    exact .inr hwrites

/-- The response depends on the operands alone. -/
theorem exec_rsp_eq {i : Instr} {s s' t t' : State} (h : SameOperands i s s') (ht : exec i s = .next t)
    (ht' : exec i s' = .next t') : t'.rsp = t.rsp := by
  rcases exec_sameResult_cases h ht ht' with ⟨c, rfl, rfl⟩ | hwrites
  · rfl
  · exact hwrites.rsp

/-- A command that only reads, and does not fault, changes the response alone (20_memory.md R39). -/
theorem Effect.eq_answer_of_isRead {i : Instr} {s t : State} {r : Response} (h : Effect i s t) (hi : i.isRead = true)
    (hr : t.rsp = some r) (hf : r.fault = false) : ∃ v, t = s.answer v := by
  cases h with
  | fault c =>
    cases hr
    cases hf
  | answer v => exact ⟨v, rfl⟩
  | write rd w n hd hc hv hrnd ho | writeCarry rd w n hd hc hv hrnd ho | divide rd w n d hd hc hv hrnd ho =>
    rw [hi] at ho
    cases ho
  | round rd rs1 tf neg x t q2 e2 heq => subst heq; cases hi
  | mode m heq => subst heq; cases hi
  | clear m heq => subst heq; cases hi

/-! ### The obligations -/

/-- Settles O21: a fault entered on both states answers alike and completes nothing; two completions agree on
what the command writes. -/
theorem resultDependsOnlyOnNamedOperands : Obligations.ResultDependsOnlyOnNamedOperands := by
  intro i s s' t t' hsr hwide hopa hrnd ht ht'
  have hsame : SameOperands i s s' := ⟨hwide, hopa, hrnd, fun sr h => absurd h (hsr sr)⟩
  refine ⟨exec_rsp_eq hsame ht ht', fun ⟨r, hr, hf⟩ => ?_⟩
  rcases exec_sameResult_cases hsame ht ht' with ⟨c, rfl, rfl⟩ | hwrites
  · cases hr
    cases hf
  · exact ⟨hwrites.dest, hwrites.carry, hwrites.rem, hwrites.rres⟩

/-- Settles O11, from the end of the step. -/
theorem everyAcceptedCommandIsAnswered : Obligations.EveryAcceptedCommandIsAnswered := by
  intro s c rest hcmds
  obtain ⟨t, ht⟩ := step_next s
  obtain ⟨⟨hconfig, hrest, hopa⟩, r, hr⟩ := step_answers hcmds ht
  exact ⟨t, r, ht, hrest, hopa, hconfig, hr⟩

/-- Settles O13, by induction on the number of steps. -/
theorem everyRunContinues : Obligations.EveryRunContinues := by
  intro n
  induction n with
  | zero => exact fun s => ⟨s, rfl, rfl⟩
  | succ n ih =>
    intro s
    obtain ⟨t, ht⟩ := step_next s
    obtain ⟨u, hrun, hcmds⟩ := ih t
    refine ⟨u, (core_run_succ n ht).trans hrun, ?_⟩
    rw [hcmds, step_cmds ht, List.drop_drop, Nat.add_comm 1 n]

/-- Settles O20: the command changes the response alone, which is no operand, so the second run answers as the first. -/
theorem readsHaveNoSideEffects : Obligations.ReadsHaveNoSideEffects := by
  intro i s t r hi ht hr hf
  obtain ⟨v, rfl⟩ := (exec_effect ht).eq_answer_of_isRead hi hr hf
  cases hr
  obtain ⟨u, hu⟩ := exec_next i (s.answer v)
  have hrsp : u.rsp = (s.answer v).rsp := exec_rsp_eq (sameOperands_answer i s v) ht hu
  obtain ⟨v', rfl⟩ := (exec_effect hu).eq_answer_of_isRead hi hrsp hf
  cases hrsp
  exact ⟨rfl, hu⟩

/-- Settles O9: accepting the command is taking it off the port and its operand into `opa`. -/
theorem stepRunsTheDecodedCommand : Obligations.StepRunsTheDecodedCommand :=
  fun _ _ _ _ hcmds hdec => step_of_decode_ok hcmds hdec

end Sys2Proof.Machine
end

section
/-! PROOF. The encoding family (30_encoding.md): decoder, encoder and opcode table are three accounts of one list of rows.
Each row is an `Opcode` with its `Layout`; `Fields.decode_ok_iff`, `Opcode.fields_instr` and `opcodeTable_eq_map` tie it to
the decoder, the encoder and the table. -/

namespace Sys2Proof

/-! ### The rows of the encoding table -/

/-- The commands of the encoding table (30_encoding.md R50), the typed ones with their width (R47): one for each of its 37
rows. -/
inductive Opcode where
  /-- SETW.w. -/
  | setw (w : Width)
  /-- INSW. -/
  | insw
  /-- RDW. -/
  | rdw
  /-- WIDEN.w. -/
  | widen (w : Width)
  /-- NARROW.w. -/
  | narrow (w : Width)
  /-- ADD.w. -/
  | add (w : Width)
  /-- MUL.w. -/
  | mul (w : Width)
  /-- DIVC.w. -/
  | divc (w : Width)
  /-- SHL.w. -/
  | shl (w : Width)
  /-- SHLI.w. -/
  | shli (w : Width)
  /-- CLZ.w. -/
  | clz (w : Width)
  /-- CLZT.w. -/
  | clzt (w : Width)
  /-- RND. -/
  | rnd
  /-- NOP. -/
  | nop
  /-- RDSR. -/
  | rdsr
  /-- WRSR. -/
  | wrsr
  /-- CLRST. -/
  | clrst

/-- What one row of the encoding table fixes: the operation code, the width select, and the fields that may hold something
other than zero (30_encoding.md R49, R50). -/
structure Layout where
  /-- The operation code. -/
  op : BitVec 8
  /-- The width select. -/
  ws : BitVec 2
  /-- Whether the row uses `rd`. -/
  useRd : Bool
  /-- Whether the row uses `rs1`. -/
  useRs1 : Bool
  /-- Whether the row uses `rs2`. -/
  useRs2 : Bool
  /-- The number of low immediate bits the row uses. -/
  immBits : Nat

/-- The layout of each row. -/
def Opcode.layout : Opcode → Layout
  | .setw w => ⟨0x01, w.code, true, false, false, 0⟩
  | .insw => ⟨0x02, 0, true, false, false, 2⟩
  | .rdw => ⟨0x03, 0, false, true, false, 2⟩
  | .widen w => ⟨0x04, w.code, true, true, false, 0⟩
  | .narrow w => ⟨0x05, w.code, true, true, false, 0⟩
  | .add w => ⟨0x10, w.code, true, true, true, 0⟩
  | .mul w => ⟨0x11, w.code, true, true, false, 0⟩
  | .divc w => ⟨0x12, w.code, true, true, false, 2⟩
  | .shl w => ⟨0x18, w.code, true, true, false, 0⟩
  | .shli w => ⟨0x19, w.code, true, true, false, 10⟩
  | .clz w => ⟨0x1A, w.code, false, true, false, 0⟩
  | .clzt w => ⟨0x1B, w.code, false, true, false, 0⟩
  | .rnd => ⟨0x20, 1, true, true, false, 3⟩
  | .nop => ⟨0x30, 0, false, false, false, 0⟩
  | .rdsr => ⟨0x31, 0, false, false, false, 4⟩
  | .wrsr => ⟨0x32, 0, false, false, false, 4⟩
  | .clrst => ⟨0x33, 0, false, false, false, 2⟩

/-- The instruction each row reads from the fields of a word (30_encoding.md R48). -/
def Opcode.instr (o : Opcode) (f : Fields) : Instr :=
  match o with
  | .setw w => .setwAt w f.rd.toFin
  | .insw => .insw f.rd.toFin f.imm.toNat
  | .rdw => .rdw f.rs1.toFin f.imm.toNat
  | .widen w => .widenAt w f.rd.toFin f.rs1.toFin
  | .narrow w => .narrowAt w f.rd.toFin f.rs1.toFin
  | .add w => .addAt w f.rd.toFin f.rs1.toFin f.rs2.toFin
  | .mul w => .mulAt w f.rd.toFin f.rs1.toFin
  | .divc w => .divcAt w f.rd.toFin f.rs1.toFin (Divisor.ofCode (f.imm.extractLsb' 0 2))
  | .shl w => .shlAt w f.rd.toFin f.rs1.toFin
  | .shli w => .shliAt w f.rd.toFin f.rs1.toFin f.imm.toNat
  | .clz w => .clzAt w f.rs1.toFin
  | .clzt w => .clztAt w f.rs1.toFin
  | .rnd => .rnd f.rd.toFin f.rs1.toFin (TruncField.ofCode (f.imm.extractLsb' 0 2)) (f.imm.getLsbD 2)
  | .nop => .nop
  | .rdsr => .rdsr f.imm.toNat
  | .wrsr => .wrsr f.imm.toNat
  | .clrst => .clrst (f.imm.extractLsb' 0 2)

/-- The rows in the order of R50. -/
def Opcode.all : List Opcode :=
  [.setw .w128, .setw .w192, .setw .w256, .insw, .rdw, .widen .w128, .widen .w192, .widen .w256,
   .narrow .w128, .narrow .w192, .narrow .w256, .add .w128, .add .w192, .add .w256,
   .mul .w128, .mul .w192, .mul .w256, .divc .w128, .divc .w192, .divc .w256,
   .shl .w128, .shl .w192, .shl .w256, .shli .w128, .shli .w192, .shli .w256,
   .clz .w128, .clz .w192, .clz .w256, .clzt .w128, .clzt .w192, .clzt .w256,
   .rnd, .nop, .rdsr, .wrsr, .clrst]

/-- No row is missing from the list. -/
theorem Opcode.mem_all (o : Opcode) : o ∈ all := by
  cases o with
  | setw w | widen w | narrow w | add w | mul w | divc w | shl w | shli w | clz w | clzt w => cases w <;> simp [all]
  | insw | rdw | rnd | nop | rdsr | wrsr | clrst => simp [all]

/-- The fields are of a word of this row: its codes, and zero wherever the row uses nothing (30_encoding.md R49). -/
structure Layout.Accepts (l : Layout) (f : Fields) : Prop where
  /-- The operation code is the row's. -/
  op : f.op = l.op
  /-- The width select is the row's. -/
  ws : f.ws = l.ws
  /-- The must-be-zero bits are zero. -/
  clean : f.clean l.useRd l.useRs1 l.useRs2 l.immBits = true

/-! ### The decoder's arms are the rows -/

/-- On a row's codes the decoder takes that row's arm. -/
theorem Opcode.decode_eq_row (o : Opcode) {f : Fields} (hop : f.op = o.layout.op) (hws : f.ws = o.layout.ws) :
    f.decode = f.row o.layout.useRd o.layout.useRs1 o.layout.useRs2 o.layout.immBits (o.instr f) := by
  obtain ⟨op, ws, rd, rs1, rs2, z, imm⟩ := f
  subst hop hws
  cases o with
  | setw w | widen w | narrow w | add w | mul w | divc w | shl w | shli w | clz w | clzt w => cases w <;> rfl
  | insw | rdw | rnd | nop | rdsr | wrsr | clrst => rfl

/-- Fields that decode have the codes of some row (30_encoding.md R52). -/
theorem exists_opcode_of_decode {f : Fields} {i : Instr} (h : f.decode = .ok i) :
    ∃ o ∈ Opcode.all, f.op = o.layout.op ∧ f.ws = o.layout.ws := by
  unfold Fields.decode at h
  split at h
  case h_38 => split at h <;> cases h
  all_goals
    rename_i hop hws
    rw [hop, hws]
    decide

/-- The decoder answers `i` exactly when a row accepts the fields and reads `i` from them. -/
theorem Fields.decode_ok_iff (f : Fields) (i : Instr) :
    f.decode = .ok i ↔ ∃ o : Opcode, o.layout.Accepts f ∧ o.instr f = i := by
  constructor
  · intro h
    obtain ⟨o, -, hop, hws⟩ := exists_opcode_of_decode h
    rw [o.decode_eq_row hop hws, Fields.row_ok_iff] at h
    obtain ⟨hclean, hi⟩ := h
    exact ⟨o, ⟨hop, hws, hclean⟩, hi⟩
  · rintro ⟨o, ⟨hop, hws, hclean⟩, hi⟩
    rw [o.decode_eq_row hop hws, Fields.row_ok_iff]
    exact ⟨hclean, hi⟩

/-! ### Must-be-zero bits -/

/-- The must-be-zero check, field by field (30_encoding.md R49). -/
theorem Fields.clean_iff (f : Fields) (a b c : Bool) (n : Nat) :
    f.clean a b c n = true ↔
      (a = false → f.rd = 0) ∧ (b = false → f.rs1 = 0) ∧ (c = false → f.rs2 = 0) ∧ f.z = 0 ∧ f.imm.toNat < 2 ^ n := by
  cases a <;> cases b <;> cases c <;> simp [Fields.clean, and_assoc]

/-- The bits at `n` and above are zero exactly in a value below 2^n. -/
theorem and_allOnes_shiftLeft_eq_zero_iff {m : Nat} (x : BitVec m) (n : Nat) :
    x &&& (BitVec.allOnes m <<< n) = 0 ↔ x.toNat < 2 ^ n := by
  constructor
  · intro h
    refine Nat.lt_pow_two_of_testBit _ fun i hi => ?_
    by_cases him : i < m
    · have hbit := congrArg (fun y => y.getLsbD i) h
      rw [BitVec.testBit_toNat]
      simpa [him, hi.not_gt] using hbit
    · exact BitVec.testBit_toNat x ▸ BitVec.getLsbD_of_ge x i (by omega)
  · intro h
    apply BitVec.eq_of_getLsbD_eq
    intro i _
    by_cases hi : i < n
    · simp [hi]
    · have hbit : x.getLsbD i = false :=
        Nat.testBit_lt_two_pow (h.trans_le (Nat.pow_le_pow_right (by decide) (by omega)))
      simp only [BitVec.getLsbD_and, hbit, Bool.false_and, BitVec.ofNat_eq_ofNat, BitVec.getLsbD_zero]

/-- The fields of a row's match column: the row's codes and zeros (30_encoding.md R50). -/
def Layout.pattern (l : Layout) : Fields := ⟨l.op, l.ws, 0, 0, 0, 0, 0⟩

/-- The fields of a row's mask column: ones wherever the row uses nothing (30_encoding.md R50). -/
def Layout.mask (l : Layout) : Fields :=
  ⟨.allOnes 8, .allOnes 2, if l.useRd then 0 else .allOnes 3, if l.useRs1 then 0 else .allOnes 3,
    if l.useRs2 then 0 else .allOnes 3, .allOnes 3, BitVec.allOnes 10 <<< l.immBits⟩

/-- Comparing under the mask is the check of the codes and the must-be-zero bits. -/
theorem Layout.and_mask_eq_pattern_iff (l : Layout) (f : Fields) : f.and l.mask = l.pattern ↔ l.Accepts f := by
  have hfield : ∀ (b : Bool) (x : BitVec 3), (x &&& if b then 0 else .allOnes 3) = 0 ↔ (b = false → x = 0) := by
    intro b x
    cases b with
    | false =>
      rw [if_neg Bool.false_ne_true, BitVec.and_allOnes]
      exact ⟨fun h _ => h, fun h => h rfl⟩
    | true => simp
  simp only [Fields.and, mask, pattern, Fields.mk.injEq, BitVec.and_allOnes, hfield,
    and_allOnes_shiftLeft_eq_zero_iff]
  constructor
  · rintro ⟨hop, hws, hclean⟩
    exact ⟨hop, hws, (f.clean_iff ..).mpr hclean⟩
  · rintro ⟨hop, hws, hclean⟩
    exact ⟨hop, hws, (f.clean_iff ..).mp hclean⟩

/-! ### The opcode table is the rows' masks and patterns -/

/-- The row of the opcode table (30_encoding.md R50). -/
def Opcode.tableRow (o : Opcode) : OpcodeRow :=
  ⟨(o.instr o.layout.pattern).mnemonic, o.layout.pattern.toWord, o.layout.mask.toWord⟩

/-- The table of R50, with its masks and matches written out, is the table the layouts make (30_encoding.md). -/
theorem opcodeTable_eq_map : opcodeTable = Opcode.all.map Opcode.tableRow := by decide

/-- A row of the table selects the words whose fields its layout accepts. -/
theorem Opcode.tableRow_selects_iff (o : Opcode) (w : CmdWord) :
    o.tableRow.selects w = true ↔ o.layout.Accepts (Fields.ofWord w) := by
  rw [← Layout.and_mask_eq_pattern_iff, ← Fields.toWord_ofWord w, OpcodeRow.selects_toWord, Fields.ofWord_toWord,
    tableRow, Fields.ofWord_toWord, Fields.ofWord_toWord]

/-- The instructions a row reads have one mnemonic. -/
theorem Opcode.instr_mnemonic (o : Opcode) (f : Fields) : (o.instr f).mnemonic = o.tableRow.mnemonic := by
  cases o with
  | setw w | widen w | narrow w | add w | mul w | divc w | shl w | shli w | clz w | clzt w => cases w <;> rfl
  | insw | rdw | rnd | nop | rdsr | wrsr | clrst => rfl

/-! ### Encoding what a row reads -/

/-- A row without an immediate admits the immediate 0 alone. -/
theorem eq_zero_of_toNat_lt_one {imm : BitVec 10} (h : imm.toNat < 2 ^ 0) : imm = 0 :=
  BitVec.eq_of_toNat_eq (by simpa using h)

/-- A 2-bit sub-field is an immediate below 4. -/
theorem setWidth_extractLsb'_of_lt {imm : BitVec 10} (h : imm.toNat < 2 ^ 2) :
    (imm.extractLsb' 0 2).setWidth 10 = imm := by
  apply BitVec.eq_of_toNat_eq
  simp only [BitVec.toNat_setWidth, BitVec.extractLsb'_toNat, Nat.shiftRight_zero]
  omega

/-- The flag and sign sub-fields of RND are an immediate below 8 (30_encoding.md R48). -/
theorem append_extractLsb'_of_lt {imm : BitVec 10} (h : imm.toNat < 2 ^ 3) :
    0#7 ++ BitVec.ofBool (imm.getLsbD 2) ++ imm.extractLsb' 0 2 = imm := by
  revert imm; decide

/-- What a row reads from fields it accepts is well formed and has these fields: no bit is ignored (30_encoding.md
R49). -/
theorem Opcode.fields_instr (o : Opcode) {f : Fields} (h : o.layout.Accepts f) :
    (o.instr f).WellFormed ∧ (o.instr f).fields = f := by
  obtain ⟨op, ws, rd, rs1, rs2, z, imm⟩ := f
  obtain ⟨hop, hws, hclean⟩ := h
  obtain ⟨hrd, hrs1, hrs2, hz, himm⟩ := (Fields.clean_iff ..).mp hclean
  subst hop hws hz
  cases o with
  | setw w =>
    obtain ⟨rfl, rfl, rfl⟩ : rs1 = 0 ∧ rs2 = 0 ∧ imm = 0 := ⟨hrs1 rfl, hrs2 rfl, eq_zero_of_toNat_lt_one himm⟩
    cases w <;> exact ⟨rfl, rfl⟩
  | widen w | narrow w | mul w | shl w =>
    obtain ⟨rfl, rfl⟩ : rs2 = 0 ∧ imm = 0 := ⟨hrs2 rfl, eq_zero_of_toNat_lt_one himm⟩
    cases w <;> exact ⟨rfl, rfl⟩
  | add w =>
    obtain rfl : imm = 0 := eq_zero_of_toNat_lt_one himm
    cases w <;> exact ⟨rfl, rfl⟩
  | clz w | clzt w =>
    obtain ⟨rfl, rfl, rfl⟩ : rd = 0 ∧ rs2 = 0 ∧ imm = 0 := ⟨hrd rfl, hrs2 rfl, eq_zero_of_toNat_lt_one himm⟩
    cases w <;> exact ⟨rfl, rfl⟩
  | divc w =>
    obtain rfl : rs2 = 0 := hrs2 rfl
    have hc := setWidth_extractLsb'_of_lt himm
    cases w <;> exact ⟨rfl, by simp [Opcode.instr, Instr.divcAt, Instr.fields, Opcode.layout, Width.code, hc]⟩
  | shli w =>
    obtain rfl : rs2 = 0 := hrs2 rfl
    cases w <;>
      exact ⟨decide_eq_true imm.isLt, by simp [Opcode.instr, Instr.shliAt, Instr.fields, Opcode.layout, Width.code]⟩
  | insw =>
    obtain ⟨rfl, rfl⟩ : rs1 = 0 ∧ rs2 = 0 := ⟨hrs1 rfl, hrs2 rfl⟩
    exact ⟨decide_eq_true himm, by simp [Opcode.instr, Instr.fields, Opcode.layout]⟩
  | rdw =>
    obtain ⟨rfl, rfl⟩ : rd = 0 ∧ rs2 = 0 := ⟨hrd rfl, hrs2 rfl⟩
    exact ⟨decide_eq_true himm, by simp [Opcode.instr, Instr.fields, Opcode.layout]⟩
  | rnd =>
    obtain rfl : rs2 = 0 := hrs2 rfl
    have hc := append_extractLsb'_of_lt himm
    exact ⟨rfl, by simpa [Opcode.instr, Instr.fields, Opcode.layout] using hc⟩
  | nop =>
    obtain ⟨rfl, rfl, rfl, rfl⟩ : rd = 0 ∧ rs1 = 0 ∧ rs2 = 0 ∧ imm = 0 :=
      ⟨hrd rfl, hrs1 rfl, hrs2 rfl, eq_zero_of_toNat_lt_one himm⟩
    exact ⟨rfl, rfl⟩
  | rdsr | wrsr =>
    obtain ⟨rfl, rfl, rfl⟩ : rd = 0 ∧ rs1 = 0 ∧ rs2 = 0 := ⟨hrd rfl, hrs1 rfl, hrs2 rfl⟩
    exact ⟨decide_eq_true himm, by simp [Opcode.instr, Instr.fields, Opcode.layout]⟩
  | clrst =>
    obtain ⟨rfl, rfl, rfl⟩ : rd = 0 ∧ rs1 = 0 ∧ rs2 = 0 := ⟨hrd rfl, hrs1 rfl, hrs2 rfl⟩
    have hc := setWidth_extractLsb'_of_lt himm
    exact ⟨rfl, by simp [Opcode.instr, Instr.fields, Opcode.layout, hc]⟩

/-! ### Reading an encoding back -/

/-- A number that fits the immediate is read back from it. -/
theorem toNat_ofNat_imm {n : Nat} (h : n < 2 ^ 10) : (BitVec.ofNat 10 n).toNat = n := by
  rw [BitVec.toNat_ofNat, Nat.mod_eq_of_lt h]

/-- A 2-bit sub-field of the immediate is read back, and no other bit is set. -/
theorem setWidth_imm (c : BitVec 2) : (c.setWidth 10).extractLsb' 0 2 = c ∧ (c.setWidth 10).toNat < 2 ^ 2 := by
  revert c; decide

/-- The sub-fields of RND are read back from the immediate, and no other bit is set (30_encoding.md R48). -/
theorem append_imm (neg : Bool) (c : BitVec 2) :
    (0#7 ++ BitVec.ofBool neg ++ c).extractLsb' 0 2 = c ∧ (0#7 ++ BitVec.ofBool neg ++ c).getLsbD 2 = neg ∧
      (0#7 ++ BitVec.ofBool neg ++ c).toNat < 2 ^ 3 := by
  revert neg c; decide

/-- The row of a well-formed instruction accepts its fields and reads the instruction from them. -/
theorem Instr.WellFormed.exists_opcode {i : Instr} (h : i.WellFormed) :
    ∃ o : Opcode, o.layout.Accepts i.fields ∧ o.instr i.fields = i := by
  rcases Machine.instr_shape i with ⟨w, rd, rfl⟩ | ⟨rd, j, rfl⟩ | ⟨rs, j, rfl⟩ | ⟨w, rd, rs, rfl⟩ | ⟨w, rd, rs, rfl⟩ |
    ⟨w, rd, rs, rt, rfl⟩ | ⟨w, rd, rs, rfl⟩ | ⟨w, rd, rs, c, rfl⟩ | ⟨w, rd, rs, rfl⟩ | ⟨w, rd, rs, n, rfl⟩ |
    ⟨w, rs, rfl⟩ | ⟨w, rs, rfl⟩ | ⟨rd, rs, tf, neg, rfl⟩ | rfl | ⟨sr, rfl⟩ | ⟨sr, rfl⟩ | ⟨m, rfl⟩
  · exact ⟨.setw w, by cases w <;> exact ⟨⟨rfl, rfl, rfl⟩, rfl⟩⟩
  · have hj : j < 4 := of_decide_eq_true h
    have hn : (BitVec.ofNat 10 j).toNat = j := toNat_ofNat_imm (by omega)
    exact ⟨.insw, ⟨rfl, rfl, decide_eq_true (hn.trans_lt hj)⟩, congrArg (Instr.insw rd) hn⟩
  · have hj : j < 4 := of_decide_eq_true h
    have hn : (BitVec.ofNat 10 j).toNat = j := toNat_ofNat_imm (by omega)
    exact ⟨.rdw, ⟨rfl, rfl, decide_eq_true (hn.trans_lt hj)⟩, congrArg (Instr.rdw rs) hn⟩
  · exact ⟨.widen w, by cases w <;> exact ⟨⟨rfl, rfl, rfl⟩, rfl⟩⟩
  · exact ⟨.narrow w, by cases w <;> exact ⟨⟨rfl, rfl, rfl⟩, rfl⟩⟩
  · exact ⟨.add w, by cases w <;> exact ⟨⟨rfl, rfl, rfl⟩, rfl⟩⟩
  · exact ⟨.mul w, by cases w <;> exact ⟨⟨rfl, rfl, rfl⟩, rfl⟩⟩
  · obtain ⟨hc, hlt⟩ := setWidth_imm c.code
    have hread : Divisor.ofCode ((c.code.setWidth 10).extractLsb' 0 2) = c := by rw [hc, Divisor.ofCode_code]
    have hinstr := congrArg (Instr.divcAt w rd rs) hread
    exact ⟨.divc w, by cases w <;> exact ⟨⟨rfl, rfl, decide_eq_true hlt⟩, hinstr⟩⟩
  · exact ⟨.shl w, by cases w <;> exact ⟨⟨rfl, rfl, rfl⟩, rfl⟩⟩
  · have hlt : n < 1024 := by cases w <;> exact of_decide_eq_true h
    have hn : (BitVec.ofNat 10 n).toNat = n := toNat_ofNat_imm hlt
    have hinstr := congrArg (Instr.shliAt w rd rs) hn
    exact ⟨.shli w, by cases w <;> exact ⟨⟨rfl, rfl, decide_eq_true (hn.trans_lt hlt)⟩, hinstr⟩⟩
  · exact ⟨.clz w, by cases w <;> exact ⟨⟨rfl, rfl, rfl⟩, rfl⟩⟩
  · exact ⟨.clzt w, by cases w <;> exact ⟨⟨rfl, rfl, rfl⟩, rfl⟩⟩
  · obtain ⟨htf, hneg, hlt⟩ := append_imm neg tf.code
    refine ⟨.rnd, ⟨rfl, rfl, decide_eq_true hlt⟩, ?_⟩
    simp only [Opcode.instr, Instr.fields, htf, hneg, TruncField.ofCode_code, BitVec.toFin_ofFin]
  · exact ⟨.nop, ⟨rfl, rfl, rfl⟩, rfl⟩
  · have hj : sr < 16 := of_decide_eq_true h
    have hn : (BitVec.ofNat 10 sr).toNat = sr := toNat_ofNat_imm (by omega)
    exact ⟨.rdsr, ⟨rfl, rfl, decide_eq_true (hn.trans_lt hj)⟩, congrArg Instr.rdsr hn⟩
  · have hj : sr < 16 := of_decide_eq_true h
    have hn : (BitVec.ofNat 10 sr).toNat = sr := toNat_ofNat_imm (by omega)
    exact ⟨.wrsr, ⟨rfl, rfl, decide_eq_true (hn.trans_lt hj)⟩, congrArg Instr.wrsr hn⟩
  · obtain ⟨hm, hlt⟩ := setWidth_imm m
    exact ⟨.clrst, ⟨rfl, rfl, decide_eq_true hlt⟩, congrArg Instr.clrst hm⟩

/-! ### The obligations -/

/-- Settles O5: the row of the instruction accepts its fields and reads the instruction back. -/
theorem decodeOfEncodeIsTheInstruction : Obligations.DecodeOfEncodeIsTheInstruction := by
  intro i h
  rw [encode, decode_toWord, Fields.decode_ok_iff]
  exact h.exists_opcode

/-- Settles O6: what a row reads from fields it accepts has these fields. -/
theorem encodeOfDecodeIsTheWord : Obligations.EncodeOfDecodeIsTheWord := by
  intro w i h
  obtain ⟨o, hacc, rfl⟩ := (Fields.decode_ok_iff _ i).mp h
  obtain ⟨hwf, hfields⟩ := o.fields_instr hacc
  exact ⟨hwf, by rw [encode, hfields, Fields.toWord_ofWord]⟩

/-- The operation code and the width select tell the rows apart (30_encoding.md R50). -/
theorem Opcode.tableRow_eq_of_codes {o p : Opcode} (hop : o.layout.op = p.layout.op)
    (hws : o.layout.ws = p.layout.ws) : o.tableRow = p.tableRow := by
  have htable : ∀ o ∈ all, ∀ p ∈ all, o.layout.op = p.layout.op → o.layout.ws = p.layout.ws →
      o.tableRow = p.tableRow := by
    decide
  exact htable o o.mem_all p p.mem_all hop hws

/-- A row of the opcode table is the row of an opcode. -/
theorem mem_opcodeTable_iff {row : OpcodeRow} : row ∈ opcodeTable ↔ ∃ o : Opcode, o.tableRow = row := by
  rw [opcodeTable_eq_map, List.mem_map]
  exact exists_congr fun o => and_iff_right o.mem_all

/-- Settles O7: a row selects exactly the words its layout accepts, these have the row's codes, and no two rows share
their codes. -/
theorem decoderAgreesWithOpcodeTable : Obligations.DecoderAgreesWithOpcodeTable := by
  refine ⟨rfl, fun w a ha b hb hsa hsb => ?_, fun w i h => ?_, fun w row hrow hsel => ?_⟩
  · obtain ⟨o, rfl⟩ := mem_opcodeTable_iff.mp ha
    obtain ⟨p, rfl⟩ := mem_opcodeTable_iff.mp hb
    have ho := (o.tableRow_selects_iff w).mp hsa
    have hp := (p.tableRow_selects_iff w).mp hsb
    exact Opcode.tableRow_eq_of_codes (ho.op.symm.trans hp.op) (ho.ws.symm.trans hp.ws)
  · obtain ⟨o, hacc, rfl⟩ := (Fields.decode_ok_iff _ i).mp h
    exact ⟨o.tableRow, mem_opcodeTable_iff.mpr ⟨o, rfl⟩, (o.instr_mnemonic _).symm, (o.tableRow_selects_iff w).mpr hacc⟩
  · obtain ⟨o, rfl⟩ := mem_opcodeTable_iff.mp hrow
    have hacc := (o.tableRow_selects_iff w).mp hsel
    exact ⟨o.instr (Fields.ofWord w), (Fields.decode_ok_iff _ _).mpr ⟨o, hacc, rfl⟩, o.instr_mnemonic _⟩

/-- Settles O10: a word that decodes is selected by a row, so this one does not decode and enters the fault ILLEGAL. -/
theorem unmatchedWordFaultsWithIllegal : Obligations.UnmatchedWordFaultsWithIllegal := by
  intro s c rest hcmds hnone
  cases hdec : decode c.insn with
  | ok i =>
    obtain ⟨_, _, hrows, _⟩ := decoderAgreesWithOpcodeTable
    obtain ⟨row, hrow, _, hsel⟩ := hrows c.insn i hdec
    rw [hnone row hrow] at hsel
    cases hsel
  | error e => exact ⟨_, Machine.step_of_decode_error hcmds hdec, (s.accept c rest).raise_squashed .illegal⟩

end Sys2Proof
end

section
/-! PROOF. The rounding engine where no check fails (44_round.md): the tables of the statements are the functions of the
model. -/

namespace Sys2Proof.Machine

open Sys2Proof.Claims

/-! ### The operands of RND -/

/-- A 32-bit number in `opa` is a sign-extended one, and is what RND reads (44_round.md R93). -/
theorem isSext32_ofInt {e : Int} (hlo : -2 ^ 31 ≤ e) (hhi : e < 2 ^ 31) :
    isSext32 (BitVec.ofInt 64 e) = true ∧ signed32 (BitVec.ofInt 64 e) = e := by
  have hlow : (BitVec.ofInt 64 e).extractLsb' 0 32 = BitVec.ofInt 32 e := by
    apply BitVec.eq_of_toNat_eq
    simp only [BitVec.extractLsb'_toNat, BitVec.toNat_ofInt, Nat.shiftRight_zero]
    omega
  have hint : (BitVec.ofInt 32 e).toInt = e := BitVec.toInt_ofInt_eq_self (by decide) (by omega) (by omega)
  refine ⟨?_, by rw [signed32, hlow, hint]⟩
  rw [isSext32, hlow, beq_iff_eq]
  apply BitVec.eq_of_toInt_eq
  rw [BitVec.toInt_signExtend_of_le (by decide), hint, BitVec.toInt_ofInt_eq_self (by decide) (by omega) (by omega)]

/-- With a legal flag, a 32-bit exponent and no zero significand with ABOVE, RND's check (3) passes (44_round.md R95). -/
theorem rndFlag_of_hasFlag {tf : TruncField} {t : TruncFlag} {opa : Word} {s : Nat} (ht : HasFlag tf t)
    (hopa : isSext32 opa = true) (hs : ¬(s = 0 ∧ t = .above)) : rndFlag tf opa s = .ok t := by
  have hval : truncValue tf = some t := by
    rcases ht with ⟨rfl, rfl⟩ | ⟨rfl, rfl⟩ | ⟨rfl, rfl⟩ <;> rfl
  simp only [rndFlag, hval, hopa, Bool.true_eq_false, if_false, if_neg hs]

/-! ### The number of digits dropped -/

/-- `dropCount` is the least number of digits to drop (44_round.md R96). -/
theorem dropCount_isLeast {s : Nat} (e : Int) (h : s < 2 ^ 128) :
    IsLeast {k : Nat | s / 10 ^ k < 10 ^ 34 ∧ 0 ≤ e + k} (dropCount s e) := by
  obtain ⟨hlt, hge⟩ := digitsOver_spec 6 s (limit_mul_gt_of_lt h)
  refine ⟨⟨?_, add_dropCount_nonneg s e⟩, fun j hj => ?_⟩
  · calc s / 10 ^ dropCount s e ≤ s / 10 ^ digitsOver 6 s :=
          Nat.div_le_div_left (Nat.pow_le_pow_right (by decide) (le_max_left ..)) (by positivity)
      _ < 10 ^ 34 := hlt
  · obtain ⟨hdiv, hexp⟩ := hj
    have hdigits : digitsOver 6 s ≤ j := by
      by_contra hlt
      exact absurd hdiv (hge j (by omega)).not_gt
    exact max_le hdigits (by omega)

/-! ### The tables -/

/-- `position` answers the table of R98 (44_round.md), the first arm where the quotient is not 0. -/
theorem positionIs_position {q r half : Nat} {t : TruncFlag} (hq : r = 0 → t = .above → q ≠ 0) :
    PositionIs q r half t (position q r half t).1 (position q r half t).2 := by
  rcases position_cases q r half t with ⟨hr, ht, hp⟩ | ⟨hr, ht, hp⟩ | ⟨hr, ht, hp⟩ | ⟨hr, hh, hp⟩ | ⟨hr, hh, hp⟩ |
    ⟨hr, hh, ht, hp⟩ | ⟨hr, hh, ht, hp⟩ | ⟨hr, hh, ht, hp⟩ <;> rw [hp]
  · have := hq hr ht
    exact .inl ⟨hr, ht, by omega, rfl⟩
  · exact .inr (.inl ⟨hr, ht, rfl, rfl⟩)
  · exact .inr (.inr (.inl ⟨hr, ht, rfl, rfl⟩))
  · exact .inr (.inr (.inr (.inl ⟨hr, hh, rfl, rfl⟩)))
  · exact .inr (.inr (.inr (.inr (.inl ⟨hh, rfl, rfl⟩))))
  · exact .inr (.inr (.inr (.inr (.inr (.inl ⟨hr, hh, ht, rfl, rfl⟩)))))
  · exact .inr (.inr (.inr (.inr (.inr (.inr (.inl ⟨hr, hh, ht, rfl, rfl⟩))))))
  · exact .inr (.inr (.inr (.inr (.inr (.inr (.inr ⟨hr, hh, ht, rfl, rfl⟩))))))

/-- The position never lies above the quotient. -/
theorem position_fst_le (q r half : Nat) (t : TruncFlag) : (position q r half t).1 ≤ q := by
  rcases position_cases q r half t with ⟨-, -, hp⟩ | ⟨-, -, hp⟩ | ⟨-, -, hp⟩ | ⟨-, -, hp⟩ | ⟨-, -, hp⟩ |
    ⟨-, -, -, hp⟩ | ⟨-, -, -, hp⟩ | ⟨-, -, -, hp⟩ <;> rw [hp]
  exact Nat.sub_le q 1

/-- `increment` is the table of R99 (44_round.md). -/
theorem increment_iff_raisedByOne (m : RoundMode) (p : Position) (q : Nat) (neg : Bool) :
    increment m p q neg = true ↔ RaisedByOne m p q neg := by
  cases m <;> simp [increment_eq_true_iff, RaisedByOne]

/-- `renormalize` is R100 (44_round.md). -/
theorem renormalize_cases (n : Nat) (e : Int) :
    (n = 10 ^ 34 ∧ renormalize n e = (10 ^ 33, e + 1)) ∨ (n ≠ 10 ^ 34 ∧ renormalize n e = (n, e)) := by
  by_cases h : n = limit
  · exact .inl ⟨h, by rw [renormalize, if_pos h]; rfl⟩
  · exact .inr ⟨h, by rw [renormalize, if_neg h]⟩

/-- Renormalization keeps a significand within 10^34. -/
theorem renormalize_fst_le {n : Nat} (h : n ≤ 10 ^ 34) (e : Int) : (renormalize n e).1 ≤ 10 ^ 34 := by
  rcases renormalize_cases n e with ⟨-, hr⟩ | ⟨-, hr⟩ <;> rw [hr]
  · norm_num
  · exact h

/-! ### The final significand and exponent -/

section
variable {m : RoundMode} {neg : Bool} {t : TruncFlag} {s k : Nat} {e : Int}

/-- Dropping, rounding and renormalizing make the final pair of the statements (44_round.md R98 to R100). -/
theorem finalPair_of_ne_zero (hs : s < 2 ^ 128) (hst : ¬(s = 0 ∧ t = .above)) (hk : k ≠ 0) :
    FinalPair m neg t s k e (renormalize (roundedQuotient m neg t s k) (e + k)).1
      (renormalize (roundedQuotient m neg t s k) (e + k)).2 := by
  have hpos : PositionIs (s / 10 ^ k) (s % 10 ^ k) (5 * 10 ^ (k - 1)) t _ _ := positionIs_position fun hr ht hq => by
    refine hst ⟨?_, ht⟩
    rw [← Nat.div_add_mod s (10 ^ k), hq, hr, Nat.mul_zero]
  rw [roundedQuotient_eq hs]
  generalize position (s / 10 ^ k) (s % 10 ^ k) (5 * 10 ^ (k - 1)) t = p at hpos ⊢
  refine .inr ⟨hk, p.1, p.2, (increment m p.2 p.1 neg).toNat, hpos, ?_, ?_⟩
  · rw [← increment_iff_raisedByOne]
    cases increment m p.2 p.1 neg with
    | true => exact .inl ⟨rfl, rfl⟩
    | false => exact .inr ⟨rfl, Bool.false_ne_true⟩
  · rcases renormalize_cases (p.1 + (increment m p.2 p.1 neg).toNat) (e + k) with ⟨hn, hr⟩ | ⟨hn, hr⟩ <;> rw [hr]
    · exact .inl ⟨hn, rfl, rfl⟩
    · exact .inr ⟨hn, rfl, rfl⟩

/-- The rounded quotient does not exceed 10^34 (44_round.md R100). -/
theorem roundedQuotient_le (hs : s < 2 ^ 128) (hdiv : s / 10 ^ k < 10 ^ 34) :
    roundedQuotient m neg t s k ≤ 10 ^ 34 := by
  have hpos := position_fst_le (s / 10 ^ k) (s % 10 ^ k) (5 * 10 ^ (k - 1)) t
  rw [roundedQuotient_eq hs]
  have hinc := Bool.toNat_le (increment m (position (s / 10 ^ k) (s % 10 ^ k) (5 * 10 ^ (k - 1)) t).2
    (position (s / 10 ^ k) (s % 10 ^ k) (5 * 10 ^ (k - 1)) t).1 neg)
  omega

/-- Where RND's check (4) passes, `reduce` answers the final pair, with a significand of 128 bits (44_round.md R97 to
R100). -/
theorem reduce_eq_ok {maxBexp : Nat} (hs : s < 2 ^ 128) (hst : ¬(s = 0 ∧ t = .above))
    (hk : IsLeast {k : Nat | s / 10 ^ k < 10 ^ 34 ∧ 0 ≤ e + k} k)
    (hbug : ¬(k = 0 ∧ t ≠ .exact ∧ (s = 0 ∨ e ≤ maxBexp))) :
    ∃ q2 e2, reduce maxBexp m neg t s e = .ok (q2, e2) ∧ FinalPair m neg t s k e q2 e2 ∧ q2 < 2 ^ 128 := by
  obtain rfl : dropCount s e = k := (dropCount_isLeast e hs).unique hk
  obtain ⟨⟨hdiv, -⟩, -⟩ := hk
  by_cases hzero : dropCount s e = 0
  · have hok : (s ≠ 0 ∧ (maxBexp : Int) < e) ∨ t = .exact := by
      by_contra hno
      simp only [not_or, not_and, not_lt] at hno
      obtain ⟨hle, hne⟩ := hno
      exact hbug ⟨hzero, hne, or_iff_not_imp_left.mpr hle⟩
    exact ⟨s, e, by rw [reduce_of_dropCount_eq_zero hzero, if_pos hok], .inl ⟨hzero, rfl, rfl⟩, hs⟩
  · have hle : roundedQuotient m neg t s (dropCount s e) ≤ 10 ^ 34 := roundedQuotient_le hs hdiv
    exact ⟨_, _, reduce_of_dropCount_ne_zero hzero, finalPair_of_ne_zero hs hst hzero,
      (renormalize_fst_le hle _).trans_lt (by norm_num)⟩

end

/-! ### Class and result word -/

/-- `classify` is the classification of R101 to R103 (44_round.md). -/
theorem classified_classify {maxBexp : Nat} (hmax : maxBexp ≤ 2 ^ 31 - 2) (neg : Bool) (q2 : Nat) {e2 : Int}
    (he : 0 ≤ e2) : Classified maxBexp neg q2 e2 (classify maxBexp neg q2 e2) := by
  unfold classify Classified
  split_ifs with hzero hover
  · exact ⟨rfl, fun _ => ⟨rfl, toInt_ofInt_of_exponent (by omega) (by omega)⟩, fun h => absurd hzero h,
      fun h => absurd hzero h⟩
  · exact ⟨rfl, fun h => absurd h hzero, fun _ _ => ⟨rfl, toInt_ofInt_of_exponent (by omega) (by omega)⟩,
      fun _ h => absurd hover h.not_gt⟩
  · exact ⟨rfl, fun h => absurd h hzero, fun _ h => absurd h hover,
      fun _ _ => ⟨rfl, toInt_ofInt_of_exponent he (by omega)⟩⟩

/-- RRES as a word has the layout of R101 (44_round.md). -/
theorem isResultWord_toWord (r : RRes) : IsResultWord r.toWord r := by
  obtain ⟨exp, sign, cls⟩ := r
  have hsign : (0#29 ++ cls.code ++ BitVec.ofBool sign ++ exp).getLsbD 32 = sign := by
    rw [BitVec.getLsbD_append, if_neg (by decide), BitVec.getLsbD_append, if_pos (by decide)]
    cases sign <;> rfl
  have hcls : (0#29 ++ cls.code ++ BitVec.ofBool sign ++ exp).extractLsb' 33 2 = cls.code := by
    rw [BitVec.extractLsb'_append_eq_of_le (by decide), BitVec.extractLsb'_append_eq_of_le (by decide)]
    exact BitVec.extractLsb'_append_eq_right
  have htop : (0#29 ++ cls.code ++ BitVec.ofBool sign ++ exp).extractLsb' 35 29 = 0#29 := by
    rw [BitVec.extractLsb'_append_eq_of_le (by decide), BitVec.extractLsb'_append_eq_of_le (by decide)]
    exact BitVec.extractLsb'_append_eq_left
  refine ⟨BitVec.extractLsb'_append_eq_right, hsign, ?_, htop⟩
  rw [RRes.toWord, hcls]
  cases cls <;> rfl

/-! ### The obligation -/

/-- RND where no check fails (44_round.md R90). -/
theorem exec_rnd_of_reduce {rd rs1 : WReg} {tf : TruncField} {neg : Bool} {s : State} {v q2 : Nat} {t : TruncFlag}
    {e2 : Int} (hreq : s.req rs1 .w128 = .ok v) (hflag : rndFlag tf s.opa v = .ok t)
    (hred : reduce s.config.maxBexp.val s.rm neg t v (signed32 s.opa) = .ok (q2, e2)) :
    exec (.rnd rd rs1 tf neg) s =
      .next (((s.setWide rd .w128 q2).setRres (classify s.config.maxBexp.val neg q2 e2)).answer
        (classify s.config.maxBexp.val neg q2 e2).toWord) := by
  simp only [exec_rnd, rndBody, hreq, hflag, hred, State.settle_ok]

/-- The encoding of RND, with its fields written out (30_encoding.md R48, R50). -/
theorem word_eq_encode_rnd (rd rs1 : WReg) (tf : TruncField) (neg : Bool) :
    word 0x20 1 (reg rd) (reg rs1) 0 (0#7 ++ BitVec.ofBool neg ++ tfBits tf) = encode (.rnd rd rs1 tf neg) := by
  have hreg : ∀ r : WReg, reg r = .ofFin r := by decide
  rw [hreg, hreg]
  cases tf <;> rfl

/-- Settles O41: the checks pass, so RND writes the pair of `reduce` and its classification and nothing else. -/
theorem rndNormalizesRoundsAndClassifies : Obligations.RndNormalizesRoundsAndClassifies := by
  refine ⟨fun rd rs1 tf neg => ?_, fun rd rs1 tf neg s x t e k hx ht hlo hhi hopa hst hk hbug => ?_⟩
  · rw [word_eq_encode_rnd]
    exact decodeOfEncodeIsTheInstruction _ rfl
  obtain ⟨hsext, hexp⟩ := isSext32_ofInt hlo hhi
  rw [← hopa] at hsext hexp
  obtain ⟨q2, e2, hred, hfinal, hq2⟩ := reduce_eq_ok (m := s.rm) (neg := neg) x.isLt hst hk hbug
  have hclass : Classified s.config.maxBexp.val neg q2 e2 (classify s.config.maxBexp.val neg q2 e2) :=
    classified_classify (Nat.le_of_lt_succ s.config.maxBexp.isLt) neg q2 (reduce_exp_nonneg hred)
  have hexec := exec_rnd_of_reduce (rd := rd) (State.req_some hx rfl) (rndFlag_of_hasFlag ht hsext hst) (hexp ▸ hred)
  have hvalue : (Wide.ofNat .w128 q2).toNat = q2 := (Wide.ofNat_toNat ..).trans (Nat.mod_eq_of_lt hq2)
  exact ⟨_, q2, e2, _, hexec, hfinal, ⟨_, s.setWide_wide_self rd .w128 q2, rfl, hvalue⟩, hclass, rfl,
    isResultWord_toWord _, fun r hr => s.setWide_wide_of_ne .w128 q2 hr, rfl, rfl, rfl, ⟨rfl, rfl, rfl⟩⟩

end Sys2Proof.Machine
end

section
/-! PROOF. The data movement family (40_move.md): for each command its encoding, the checks of its rule as equations of its
operand, and its effect. -/

namespace Sys2Proof.Machine

open Sys2Proof.Claims

/-! ### Encodings -/

/-- A register field of a command word holds the register's number (30_encoding.md R48). -/
theorem reg_eq_ofFin (r : WReg) : reg r = .ofFin r := by
  revert r; decide

/-- A word that encodes a well-formed instruction decodes to it. -/
theorem decode_of_eq_encode {c : CmdWord} {i : Instr} (hwf : i.WellFormed) (hc : c = encode i) : decode c = .ok i := by
  rw [hc]
  exact decodeOfEncodeIsTheInstruction i hwf

theorem decode_word_setwAt (w : Width) (rd : WReg) :
    decode (word 0x01 w.code (reg rd) 0 0 0) = .ok (.setwAt w rd) := by
  rw [reg_eq_ofFin]
  cases w <;> exact decode_of_eq_encode rfl rfl

theorem decode_word_insw (rd : WReg) {i : Nat} (hi : i < 4) :
    decode (word 0x02 0 (reg rd) 0 0 (BitVec.ofNat 10 i)) = .ok (.insw rd i) := by
  rw [reg_eq_ofFin]
  exact decode_of_eq_encode (decide_eq_true hi) rfl

theorem decode_word_rdw (rs1 : WReg) {i : Nat} (hi : i < 4) :
    decode (word 0x03 0 0 (reg rs1) 0 (BitVec.ofNat 10 i)) = .ok (.rdw rs1 i) := by
  rw [reg_eq_ofFin]
  exact decode_of_eq_encode (decide_eq_true hi) rfl

theorem decode_word_widenAt (w : Width) (rd rs1 : WReg) :
    decode (word 0x04 w.code (reg rd) (reg rs1) 0 0) = .ok (.widenAt w rd rs1) := by
  rw [reg_eq_ofFin, reg_eq_ofFin]
  cases w <;> exact decode_of_eq_encode rfl rfl

theorem decode_word_narrowAt (w : Width) (rd rs1 : WReg) :
    decode (word 0x05 w.code (reg rd) (reg rs1) 0 0) = .ok (.narrowAt w rd rs1) := by
  rw [reg_eq_ofFin, reg_eq_ofFin]
  cases w <;> exact decode_of_eq_encode rfl rfl

/-! ### Operand checks -/

section
variable {s : State} {r : WReg} {x : Wide} {i : Nat}

@[simp] theorem State.reqAny_none (h : s.wide r = none) : s.reqAny r = .error .empty := by
  rw [State.reqAny, h]

@[simp] theorem State.reqAny_some (h : s.wide r = some x) : s.reqAny r = .ok x := by
  rw [State.reqAny, h]

@[simp] theorem State.reqWord_none (h : s.wide r = none) : s.reqWord r i = .error .empty := by
  rw [State.reqWord, State.reqAny_none h]

/-- A register has no word at or past its word count (20_memory.md R38). -/
@[simp] theorem State.reqWord_index (h : s.wide r = some x) (hi : x.width.words ≤ i) :
    s.reqWord r i = .error .index := by
  simp only [State.reqWord, State.reqAny_some h, if_pos hi]

@[simp] theorem State.reqWord_some (h : s.wide r = some x) (hi : i < x.width.words) : s.reqWord r i = .ok x := by
  simp only [State.reqWord, State.reqAny_some h, if_neg hi.not_ge]

end

/-! ### How a command ends -/

/-- A command whose body ends in a cause faults with it. -/
theorem faults_of_body_error {i : Instr} {s : State} {b : Except Cause State} {c : Cause} (hexec : exec i s = s.settle b)
    (hb : b = .error c) : Faults i s c :=
  ⟨s.raise c, by rw [hexec, hb, State.settle_error], s.raise_squashed c⟩

/-- A command whose body completes has the body's state as its next state. -/
theorem exec_of_body_ok {i : Instr} {s t : State} {b : Except Cause State} (hexec : exec i s = s.settle b)
    (hb : b = .ok t) : exec i s = .next t := by
  rw [hexec, hb, State.settle_ok]

/-! ### Values that fit the width written -/

/-- An operand word fits every width. -/
theorem word_toNat_lt_two_pow_bits (v : Word) (w : Width) : v.toNat < 2 ^ w.bits :=
  v.isLt.trans_le (Nat.pow_le_pow_right (by decide) (by cases w <;> decide))

/-- A value fits its own width and every wider one (40_move.md R63). -/
theorem Wide.toNat_lt_of_bits_le {x : Wide} {w : Width} (h : x.width.bits ≤ w.bits) : x.toNat < 2 ^ w.bits :=
  x.toNat_lt.trans_le (Nat.pow_le_pow_right (by decide) h)

/-- A value with one of its own words replaced still fits its width (40_move.md R61). -/
theorem Wide.replaceWord_lt {x : Wide} {i : Nat} (hi : i < x.width.words) (a : Word) :
    replaceWord x.toNat i a < 2 ^ x.width.bits := by
  have hbits := x.width.bits_eq_words
  exact Machine.replaceWord_lt (by omega) x.toNat_lt

/-- A register written with a value that fits holds that very value. -/
theorem State.setWide_answer_wroteReg_of_lt (s : State) (rd : WReg) {w : Width} {n : Nat} (h : n < 2 ^ w.bits) :
    WroteReg rd w n s ((s.setWide rd w n).answer 0) := by
  have hwrote := s.setWide_answer_wroteReg rd w n
  rwa [Nat.mod_eq_of_lt h] at hwrote

/-! ### The obligations -/

/-- Settles O23: the checks of `reqWord`, then the arithmetic of the replaced word, whose value keeps the width. -/
theorem inswReplacesOneWord : Obligations.InswReplacesOneWord := by
  intro rd i s
  refine ⟨decode_word_insw rd, fun hnone => ?_, fun x hx => ⟨fun hi => ?_, fun hi => ?_⟩⟩
  · exact faults_of_body_error (exec_insw rd i s) (by rw [inswBody, State.reqWord_none hnone])
  · exact faults_of_body_error (exec_insw rd i s) (by rw [inswBody, State.reqWord_index hx hi])
  · have hbody : inswBody rd i s = .ok ((s.setWide rd x.width (replaceWord x.toNat i s.opa)).answer 0) := by
      rw [inswBody, State.reqWord_some hx hi]
    exact ⟨_, replaceWord x.toNat i s.opa, exec_of_body_ok (exec_insw rd i s) hbody,
      s.setWide_answer_wroteReg_of_lt rd (Wide.replaceWord_lt hi s.opa), replaceWord_add x.toNat i s.opa,
      fun j => wordOf_replaceWord x.toNat i j s.opa⟩

/-- Settles O24: the checks of `reqWord`, then an answer alone. -/
theorem rdwAnswersOneWord : Obligations.RdwAnswersOneWord := by
  intro rs1 i s
  refine ⟨decode_word_rdw rs1, fun hnone => ?_, fun x hx => ⟨fun hi => ?_, fun hi => ?_⟩⟩
  · exact faults_of_body_error (exec_rdw rs1 i s) (by rw [rdwBody, State.reqWord_none hnone])
  · exact faults_of_body_error (exec_rdw rs1 i s) (by rw [rdwBody, State.reqWord_index hx hi])
  · have hbody : rdwBody rs1 i s = .ok (s.answer (wordOf x.toNat i)) := by
      rw [rdwBody, State.reqWord_some hx hi]
    exact ⟨wordOf x.toNat i, exec_of_body_ok (exec_rdw rs1 i s) hbody, wordOf_toNat x.toNat i⟩

/-- Settles O25: a value no wider than w fits w, so the write keeps the integer. -/
theorem widenKeepsTheInteger : Obligations.WidenKeepsTheInteger := by
  intro w rd rs1 s
  refine ⟨decode_word_widenAt w rd rs1, fun hnone => ?_, fun x hx => ⟨fun hw => ?_, fun hw => ?_⟩⟩
  · exact faults_of_body_error (exec_widenAt w rd rs1 s) (by rw [widenBody, State.reqAny_none hnone])
  · exact faults_of_body_error (exec_widenAt w rd rs1 s) (by simp only [widenBody, State.reqAny_some hx, if_pos hw])
  · have hbody : widenBody w rd rs1 s = .ok ((s.setWide rd w x.toNat).answer 0) := by
      simp only [widenBody, State.reqAny_some hx, if_neg hw.not_gt]
    exact ⟨_, exec_of_body_ok (exec_widenAt w rd rs1 s) hbody,
      s.setWide_answer_wroteReg_of_lt rd (Wide.toNat_lt_of_bits_le hw)⟩

/-- Settles O26: the write takes the value modulo 2^w, and the carry says whether that lost a bit. -/
theorem narrowKeepsTheLowBits : Obligations.NarrowKeepsTheLowBits := by
  intro w rd rs1 s
  refine ⟨decode_word_narrowAt w rd rs1, fun hnone => ?_, fun x hx => ⟨fun hw => ?_, fun hw => ?_⟩⟩
  · exact faults_of_body_error (exec_narrowAt w rd rs1 s) (by rw [narrowBody, State.reqAny_none hnone])
  · exact faults_of_body_error (exec_narrowAt w rd rs1 s) (by simp only [narrowBody, State.reqAny_some hx, if_pos hw])
  · have hbody : narrowBody w rd rs1 s =
        .ok (((s.setWide rd w x.toNat).setCarry (lostBits w x.toNat)).answer 0) := by
      simp only [narrowBody, State.reqAny_some hx, if_neg hw.not_gt]
    exact ⟨_, exec_of_body_ok (exec_narrowAt w rd rs1 s) hbody, s.setWide_setCarry_answer_wrote rd w x.toNat⟩

/-- Settles O22: the rule has no check, and the operand fits every width. -/
theorem setwWritesTheOperand : Obligations.SetwWritesTheOperand := by
  intro w rd s
  exact ⟨decode_word_setwAt w rd, _, exec_of_body_ok (exec_setwAt w rd s) rfl,
    s.setWide_answer_wroteReg_of_lt rd (word_toNat_lt_two_pow_bits s.opa w)⟩

end Sys2Proof.Machine
end

section
/-! PROOF. The adder and multiplier family (41_addmul.md): for ADD and MUL the encoding, the checks of the sources as
equations, and the write with its carry. -/

namespace Sys2Proof.Machine

open Sys2Proof.Claims

/-! ### Encodings -/

theorem decode_word_addAt (w : Width) (rd rs1 rs2 : WReg) :
    decode (word 0x10 w.code (reg rd) (reg rs1) (reg rs2) 0) = .ok (.addAt w rd rs1 rs2) := by
  simp only [reg_eq_ofFin]
  cases w <;> exact decode_of_eq_encode rfl rfl

theorem decode_word_mulAt (w : Width) (rd rs1 : WReg) :
    decode (word 0x11 w.code (reg rd) (reg rs1) 0 0) = .ok (.mulAt w rd rs1) := by
  simp only [reg_eq_ofFin]
  cases w <;> exact decode_of_eq_encode rfl rfl

/-! ### The checks of ADD's two sources -/

section
variable {s : State} {r1 r2 : WReg} {w : Width} {x y : Wide}

/-- One EMPTY source is enough, whatever the width of the other (60_exceptions.md R122). -/
@[simp] theorem State.reqBoth_empty (h : s.wide r1 = none ∨ s.wide r2 = none) : s.reqBoth r1 r2 w = .error .empty := by
  rcases h with h | h
  · rw [State.reqBoth, h]
  · cases h1 : s.wide r1 <;> rw [State.reqBoth, h1, h]

@[simp] theorem State.reqBoth_width (h1 : s.wide r1 = some x) (h2 : s.wide r2 = some y)
    (hw : x.width ≠ w ∨ y.width ≠ w) : s.reqBoth r1 r2 w = .error .width := by
  simp only [State.reqBoth, h1, h2, if_neg (not_and_or.mpr hw)]

@[simp] theorem State.reqBoth_some (h1 : s.wide r1 = some x) (h2 : s.wide r2 = some y) (hx : x.width = w)
    (hy : y.width = w) : s.reqBoth r1 r2 w = .ok (x.toNat, y.toNat) := by
  simp only [State.reqBoth, h1, h2, if_pos (And.intro hx hy)]

end

/-! ### The obligations -/

/-- Settles O28: the checks of `reqBoth`, then a write of the sum modulo 2^w with the carry of the exact sum. -/
theorem addWritesSumAndCarry : Obligations.AddWritesSumAndCarry := by
  intro w rd rs1 rs2 s
  have hexec := exec_addAt w rd rs1 rs2 s
  refine ⟨decode_word_addAt w rd rs1 rs2, fun hnone => ?_, fun x y hx hy => ⟨fun hw => ?_, fun hxw hyw => ?_⟩⟩
  · exact faults_of_body_error hexec (by rw [addBody, State.reqBoth_empty hnone])
  · exact faults_of_body_error hexec (by rw [addBody, State.reqBoth_width hx hy hw])
  · have hbody : addBody w rd rs1 rs2 s =
        .ok (((s.setWide rd w (x.toNat + y.toNat)).setCarry (lostBits w (x.toNat + y.toNat))).answer 0) := by
      rw [addBody, State.reqBoth_some hx hy hxw hyw]
    exact ⟨_, exec_of_body_ok hexec hbody, s.setWide_setCarry_answer_wrote rd w (x.toNat + y.toNat)⟩

/-- Settles O29: the checks of `req`, then a write of the product modulo 2^w with the carry of the exact product. -/
theorem mulWritesProductAndCarry : Obligations.MulWritesProductAndCarry := by
  intro w rd rs1 s
  have hexec := exec_mulAt w rd rs1 s
  refine ⟨decode_word_mulAt w rd rs1, fun hnone => ?_, fun x hx => ⟨fun hw => ?_, fun hw => ?_⟩⟩
  · exact faults_of_body_error hexec (by rw [mulBody, State.req_none hnone])
  · exact faults_of_body_error hexec (by rw [mulBody, State.req_width hx hw])
  · have hbody : mulBody w rd rs1 s = .ok (((s.setWide rd w (x.toNat * s.opa.toNat)).setCarry
        (lostBits w (x.toNat * s.opa.toNat))).answer 0) := by
      rw [mulBody, State.req_some hx hw]
    exact ⟨_, exec_of_body_ok hexec hbody, s.setWide_setCarry_answer_wrote rd w (x.toNat * s.opa.toNat)⟩

end Sys2Proof.Machine
end

section
/-! PROOF. The divider family (42_divide.md): for DIVC the encoding, the quotient and the remainder as values that fit where
they are written, and the effect. -/

namespace Sys2Proof.Machine

open Sys2Proof.Claims

/-! ### Encoding -/

theorem decode_word_divcAt (w : Width) (rd rs1 : WReg) (c : Divisor) :
    decode (word 0x12 w.code (reg rd) (reg rs1) 0 (c.code.setWidth 10)) = .ok (.divcAt w rd rs1 c) := by
  simp only [reg_eq_ofFin]
  cases w <;> exact decode_of_eq_encode rfl rfl

/-! ### The quotient and the remainder fit -/

/-- A quotient never exceeds its dividend, so it fits the dividend's width (42_divide.md R76). -/
theorem Wide.div_lt_two_pow_bits (x : Wide) (d : Nat) : x.toNat / d < 2 ^ x.width.bits :=
  (Nat.div_le_self x.toNat d).trans_lt x.toNat_lt

/-- A remainder by a divisor of the table fits the 64 bits of REM (42_divide.md R75, R76). -/
theorem toNat_ofNat_mod_divisorValue (n : Nat) (c : Divisor) :
    (BitVec.ofNat 64 (n % divisorValue c)).toNat = n % divisorValue c := by
  have hmod : n % divisorValue c < 10 ^ 19 := (Nat.mod_lt n (divisorValue_pos c)).trans_le (divisorValue_le c)
  rw [BitVec.toNat_ofNat]
  exact Nat.mod_eq_of_lt (hmod.trans (by decide))

/-! ### The obligation -/

/-- Settles O33: the checks of `req`, then a write of the quotient, which fits the dividend's width, beside a remainder
that fits REM. -/
theorem divcWritesQuotientAndRemainder : Obligations.DivcWritesQuotientAndRemainder := by
  refine ⟨⟨rfl, rfl, rfl, rfl⟩, ⟨rfl, rfl, rfl, rfl⟩, fun w rd rs1 c s => ?_⟩
  have hexec := exec_divcAt w rd rs1 c s
  refine ⟨decode_word_divcAt w rd rs1 c, fun hnone => ?_, fun x hx => ⟨fun hw => ?_, fun hw => ?_⟩⟩
  · exact faults_of_body_error hexec (by rw [divcBody, State.req_none hnone])
  · exact faults_of_body_error hexec (by rw [divcBody, State.req_width hx hw])
  · have hbody : divcBody w rd rs1 c s = .ok (((s.setWide rd w (x.toNat / divisorValue c)).setRem
        (BitVec.ofNat 64 (x.toNat % divisorValue c))).answer 0) := by
      rw [divcBody, State.req_some hx hw]
    have hquot : x.toNat / divisorValue c < 2 ^ w.bits := hw ▸ x.div_lt_two_pow_bits (divisorValue c)
    have hwrote := s.setWide_answer_wroteReg_of_lt rd hquot
    exact ⟨_, exec_of_body_ok hexec hbody, hwrote.dest, toNat_ofNat_mod_divisorValue x.toNat c, hwrote.regs,
      hwrote.status, hwrote.rm, hwrote.rres, hwrote.port, hwrote.rsp⟩

end Sys2Proof.Machine
end

section
/-! PROOF. The shifter and leading-zero counter family (43_shift_clz.md): the encodings, the shift that SHL and SHLI share,
and the counts of CLZ and CLZT as bounds on the value or the word counted. -/

namespace Sys2Proof.Machine

open Sys2Proof.Claims

/-! ### Encodings -/

theorem decode_word_shlAt (w : Width) (rd rs1 : WReg) :
    decode (word 0x18 w.code (reg rd) (reg rs1) 0 0) = .ok (.shlAt w rd rs1) := by
  simp only [reg_eq_ofFin]
  cases w <;> exact decode_of_eq_encode rfl rfl

theorem decode_word_shliAt (w : Width) (rd rs1 : WReg) {n : Nat} (hn : n < 1024) :
    decode (word 0x19 w.code (reg rd) (reg rs1) 0 (BitVec.ofNat 10 n)) = .ok (.shliAt w rd rs1 n) := by
  simp only [reg_eq_ofFin]
  cases w <;> exact decode_of_eq_encode (decide_eq_true hn) rfl

theorem decode_word_clzAt (w : Width) (rs1 : WReg) :
    decode (word 0x1A w.code 0 (reg rs1) 0 0) = .ok (.clzAt w rs1) := by
  rw [reg_eq_ofFin]
  cases w <;> exact decode_of_eq_encode rfl rfl

theorem decode_word_clztAt (w : Width) (rs1 : WReg) :
    decode (word 0x1B w.code 0 (reg rs1) 0 0) = .ok (.clztAt w rs1) := by
  rw [reg_eq_ofFin]
  cases w <;> exact decode_of_eq_encode rfl rfl

/-! ### The shift -/

/-- A shifted value fits the width it is shifted at (43_shift_clz.md R80). -/
theorem shiftLeft_lt (w : Width) (v n : Nat) : shiftLeft w v n < 2 ^ w.bits := by
  rw [shiftLeft_eq]
  exact Nat.mod_lt _ (Nat.two_pow_pos _)

/-- From the width on, a shift clears the value (43_shift_clz.md R80). -/
theorem shiftLeft_eq_zero {w : Width} {n : Nat} (v : Nat) (h : w.bits ≤ n) : shiftLeft w v n = 0 :=
  if_pos h

section
variable {i : Instr} {s : State} {w : Width} {rd rs1 : WReg} {n : Nat}

theorem faults_empty_of_shift (hexec : exec i s = s.settle (shiftBody w rd rs1 n s)) (hnone : s.wide rs1 = none) :
    Faults i s .empty :=
  faults_of_body_error hexec (by rw [shiftBody, State.req_none hnone])

theorem faults_width_of_shift {x : Wide} (hexec : exec i s = s.settle (shiftBody w rd rs1 n s)) (hx : s.wide rs1 = some x)
    (hw : x.width ≠ w) : Faults i s .width :=
  faults_of_body_error hexec (by rw [shiftBody, State.req_width hx hw])

/-- The effect of SHL and SHLI once the amount `n` is known, from whichever source it comes (43_shift_clz.md R80, R81). -/
theorem wroteReg_of_shift {x : Wide} (hexec : exec i s = s.settle (shiftBody w rd rs1 n s)) (hx : s.wide rs1 = some x)
    (hw : x.width = w) :
    ∃ t, exec i s = .next t ∧ WroteReg rd w (x.toNat * 2 ^ n % 2 ^ w.bits) s t ∧ (w.bits ≤ n → t.Holds rd w 0) := by
  have hbody : shiftBody w rd rs1 n s = .ok ((s.setWide rd w (shiftLeft w x.toNat n)).answer 0) := by
    rw [shiftBody, State.req_some hx hw]
  have hwrote := s.setWide_answer_wroteReg_of_lt rd (shiftLeft_lt w x.toNat n)
  refine ⟨_, exec_of_body_ok hexec hbody, shiftLeft_eq w x.toNat n ▸ hwrote, fun hn => ?_⟩
  exact shiftLeft_eq_zero x.toNat hn ▸ hwrote.dest

end

/-! ### The counts -/

/-- Zero counts every bit (43_shift_clz.md R82, R83). -/
@[simp] theorem leadingZeros_zero (bits : Nat) : leadingZeros bits 0 = bits :=
  if_pos rfl

/-- The most significant word of a value is all of it above the words below (43_shift_clz.md R83). -/
theorem wordOf_top_toNat {w : Width} {v : Nat} (hv : v < 2 ^ w.bits) :
    (wordOf v (w.words - 1)).toNat = v / 2 ^ (w.bits - 64) := by
  have hlow : 64 * (w.words - 1) = w.bits - 64 := by rw [w.bits_eq_words]; omega
  have hbits : w.bits = w.bits - 64 + 64 := by cases w <;> rfl
  have htop : v / 2 ^ (w.bits - 64) < 2 ^ 64 := by
    rw [Nat.div_lt_iff_lt_mul (Nat.two_pow_pos _), ← pow_add, Nat.add_comm, ← hbits]
    exact hv
  rw [wordOf_toNat, hlow, Nat.mod_eq_of_lt htop]

/-! ### The obligations -/

/-- Settles O35: SHL is the shift by `opa`. -/
theorem shlShiftsByTheOperand : Obligations.ShlShiftsByTheOperand := by
  intro w rd rs1 s
  have hexec : exec (.shlAt w rd rs1) s = s.settle (shiftBody w rd rs1 s.opa.toNat s) := exec_shlAt w rd rs1 s
  exact ⟨decode_word_shlAt w rd rs1, faults_empty_of_shift hexec,
    fun _ hx => ⟨faults_width_of_shift hexec hx, wroteReg_of_shift hexec hx⟩⟩

/-- Settles O36: SHLI is the shift by the immediate. -/
theorem shliShiftsByTheImmediate : Obligations.ShliShiftsByTheImmediate := by
  intro w rd rs1 n s
  have hexec : exec (.shliAt w rd rs1 n) s = s.settle (shiftBody w rd rs1 n s) := exec_shliAt w rd rs1 n s
  exact ⟨decode_word_shliAt w rd rs1, faults_empty_of_shift hexec,
    fun _ hx => ⟨faults_width_of_shift hexec hx, wroteReg_of_shift hexec hx⟩⟩

/-- Settles O37: the checks of `req`, then the count over the value, which is below 2^w. -/
theorem clzCountsTheWholeValue : Obligations.ClzCountsTheWholeValue := by
  intro w rs1 s
  have hexec := exec_clzAt w rs1 s
  refine ⟨decode_word_clzAt w rs1, fun hnone => ?_, fun x hx => ⟨fun hw => ?_, fun hw => ?_⟩⟩
  · exact faults_of_body_error hexec (by rw [clzBody, State.req_none hnone])
  · exact faults_of_body_error hexec (by rw [clzBody, State.req_width hx hw])
  · have hbody : clzBody w rs1 s = .ok (s.answer (BitVec.ofNat 64 (leadingZeros w.bits x.toNat))) := by
      rw [clzBody, State.req_some hx hw]
    have hlt : x.toNat < 2 ^ w.bits := hw ▸ x.toNat_lt
    exact ⟨_, exec_of_body_ok hexec hbody, fun hzero => by rw [hzero, leadingZeros_zero],
      fun hne => leadingZeros_of_ne_zero hne hlt⟩

/-- Settles O38: the checks of `req`, then the count over the top word, which is the value divided by 2^(w-64). -/
theorem clztCountsTheTopWord : Obligations.ClztCountsTheTopWord := by
  intro w rs1 s
  have hexec := exec_clztAt w rs1 s
  refine ⟨decode_word_clztAt w rs1, fun hnone => ?_, fun x hx => ⟨fun hw => ?_, fun hw => ?_⟩⟩
  · exact faults_of_body_error hexec (by rw [clztBody, State.req_none hnone])
  · exact faults_of_body_error hexec (by rw [clztBody, State.req_width hx hw])
  · have hbody : clztBody w rs1 s =
        .ok (s.answer (BitVec.ofNat 64 (leadingZeros 64 (wordOf x.toNat (w.words - 1)).toNat))) := by
      rw [clztBody, State.req_some hx hw]
    have htop : (wordOf x.toNat (w.words - 1)).toNat = x.toNat / 2 ^ (w.bits - 64) := wordOf_top_toNat (hw ▸ x.toNat_lt)
    have hlt := (wordOf x.toNat (w.words - 1)).isLt
    rw [htop] at hbody hlt
    exact ⟨_, exec_of_body_ok hexec hbody, fun hzero => by rw [hzero, leadingZeros_zero],
      fun hne => leadingZeros_of_ne_zero hne hlt⟩

end Sys2Proof.Machine
end

section
/-! PROOF. The rounding engine where a check fails (44_round.md R95, R97), and what a completed RND leaves alone (R104).
The checks are the equations of `req`, `rndFlag` and `reduce`; the frame is read off the one state a completed RND leaves. -/

namespace Sys2Proof.Machine

open Sys2Proof.Claims

/-! ### Checks (3) and (4) as equations -/

/-- `isSext32` fails exactly on an operand that is not the sign extension of its low 32 bits (44_round.md R92). -/
theorem isSext32_eq_false_iff (v : Word) : isSext32 v = false ↔ v ≠ (v.extractLsb' 0 32).signExtend 64 := by
  rw [isSext32, beq_eq_false_iff_ne]

/-- Each condition of RND's check (3) makes it fail (44_round.md R95). -/
theorem rndFlag_eq_badval {tf : TruncField} {opa : Word} {s : Nat}
    (h : tf = .reserved ∨ isSext32 opa = false ∨ (s = 0 ∧ tf = .above)) : rndFlag tf opa s = .error .badval := by
  rcases rndFlag_cases tf opa s with ⟨-, hbad⟩ | ⟨t, hval, hsext, hst, -⟩
  · exact hbad
  · rcases h with rfl | hno | ⟨hzero, rfl⟩
    · cases hval
    · rw [hsext] at hno
      cases hno
    · cases hval
      exact absurd ⟨hzero, rfl⟩ hst

/-- A significand below 10^34 with an exponent of at least 0 drops no digit (44_round.md R96). -/
theorem dropCount_eq_zero {s : Nat} {e : Int} (hs : s < 10 ^ 34) (he : 0 ≤ e) : dropCount s e = 0 := by
  obtain ⟨-, hleast⟩ := dropCount_isLeast e (hs.trans (by norm_num))
  exact Nat.le_zero.mp (hleast ⟨by simpa using hs, by simpa using he⟩)

/-- Nothing to drop, nothing above MAX_BEXP and a flag that is not EXACT: TRUNCBUG (44_round.md R97). -/
theorem reduce_eq_truncbug {maxBexp : Nat} {m : RoundMode} {neg : Bool} {t : TruncFlag} {s : Nat} {e : Int}
    (hs : s < 10 ^ 34) (he : 0 ≤ e) (ht : t ≠ .exact) (hmax : s = 0 ∨ e ≤ maxBexp) :
    reduce maxBexp m neg t s e = .error .truncbug := by
  have hbug : ¬((s ≠ 0 ∧ (maxBexp : Int) < e) ∨ t = .exact) := by
    rintro (⟨hne, hlt⟩ | hexact)
    · exact hmax.elim hne hlt.not_ge
    · exact ht hexact
  rw [reduce_of_dropCount_eq_zero (dropCount_eq_zero hs he), if_neg hbug]

/-! ### What a completed RND leaves -/

/-- An RND that does not fault passed every check, and leaves the state its rule gives (44_round.md R95, R101). -/
theorem Effect.rnd_completed {rd rs1 : WReg} {tf : TruncField} {neg : Bool} {s u : State} {r : Response}
    (h : Effect (.rnd rd rs1 tf neg) s u) (hr : u.rsp = some r) (hf : r.fault = false) :
    ∃ x t q2 e2, s.wide rs1 = some x ∧ x.width = .w128 ∧ rndFlag tf s.opa x.toNat = .ok t ∧
      reduce s.config.maxBexp.val s.rm neg t x.toNat (signed32 s.opa) = .ok (q2, e2) ∧
      u = ((s.setWide rd .w128 q2).setRres (classify s.config.maxBexp.val neg q2 e2)).answer
        (classify s.config.maxBexp.val neg q2 e2).toWord := by
  cases h with
  | fault c =>
    cases hr
    cases hf
  | round rd' rs1' tf' neg' x t q2 e2 hi hx hw hflag hred =>
    cases hi
    exact ⟨x, t, q2, e2, hx, hw, hflag, hred, rfl⟩
  | write rd w n hd hc hv hrnd | writeCarry rd w n hd hc hv hrnd | divide rd w n d hd hc hv hrnd
  | answer v hd hc hv hrnd => cases hrnd
  | mode m hi => cases hi
  | clear m hi => cases hi

/-! ### The obligations -/

/-- Settles O42: each check in turn fails, after those before it passed, and the body ends in its cause. -/
theorem rndFaultsInOrder : Obligations.RndFaultsInOrder := by
  intro rd rs1 tf neg s
  have hexec := exec_rnd rd rs1 tf neg s
  refine ⟨fun hnone => ?_, fun x hx hw => ?_, fun x hx => ?_⟩
  · exact faults_of_body_error hexec (by rw [rndBody, State.req_none hnone])
  · exact faults_of_body_error hexec (by rw [rndBody, State.req_width hx hw])
  · have hreq : s.req rs1 .w128 = .ok x.toNat := State.req_some hx rfl
    refine ⟨fun hbad => ?_, fun t e ht hlo hhi hopa hst hs he hexact hmax => ?_⟩
    · rw [← isSext32_eq_false_iff] at hbad
      exact faults_of_body_error hexec (by simp only [rndBody, hreq, rndFlag_eq_badval hbad])
    · obtain ⟨hsext, hexp⟩ := isSext32_ofInt hlo hhi
      rw [← hopa] at hsext hexp
      have hred : reduce s.config.maxBexp.val s.rm neg t x.toNat (signed32 s.opa) = .error .truncbug :=
        reduce_eq_truncbug hs (hexp ▸ he) hexact (hexp ▸ hmax)
      exact faults_of_body_error hexec (by simp only [rndBody, hreq, rndFlag_of_hasFlag ht hsext hst, hred])

/-- Settles O43: the state a completed RND leaves differs in its destination, RRES and the response alone. -/
theorem rndWritesOnlyDestinationAndRres : Obligations.RndWritesOnlyDestinationAndRres := by
  intro rd rs1 tf neg s t r ht hr hf
  obtain ⟨_, _, q2, _, _, _, _, _, rfl⟩ := (exec_effect ht).rnd_completed hr hf
  have hregs : ∀ r, r ≠ rd → (s.setWide rd .w128 q2).wide r = s.wide r := fun _ => s.setWide_wide_of_ne .w128 q2
  exact ⟨rfl, rfl, rfl, hregs, fun hne => hregs rs1 hne.symm, rfl, rfl, rfl⟩

end Sys2Proof.Machine
end

section
/-! PROOF. The system commands (45_system.md): their encodings, the words the special registers read as, taken apart
field by field, and the values of CTRL that name a mode. -/

namespace Sys2Proof.Machine

open Sys2Proof.Claims

/-! ### Encodings -/

theorem decode_word_rdsr {sr : Nat} (h : sr < 16) : decode (word 0x31 0 0 0 0 (BitVec.ofNat 10 sr)) = .ok (.rdsr sr) :=
  decode_of_eq_encode (decide_eq_true h) rfl

theorem decode_word_wrsr {sr : Nat} (h : sr < 16) : decode (word 0x32 0 0 0 0 (BitVec.ofNat 10 sr)) = .ok (.wrsr sr) :=
  decode_of_eq_encode (decide_eq_true h) rfl

theorem decode_word_clrst (m : BitVec 2) : decode (word 0x33 0 0 0 0 (m.setWidth 10)) = .ok (.clrst m) :=
  decode_of_eq_encode rfl rfl

/-- NOP has one word (30_encoding.md R50). -/
theorem decode_eq_nop_iff (w : CmdWord) : decode w = .ok .nop ↔ w = 0x30000000#32 := by
  constructor
  · intro h
    obtain ⟨-, henc⟩ := encodeOfDecodeIsTheWord w .nop h
    exact henc.symm
  · exact decode_of_eq_encode (i := .nop) rfl

/-- No command but NOP has the operation code 0x30 (30_encoding.md R50). -/
theorem eq_nop_of_decode {w : CmdWord} {i : Instr} (h : decode w = .ok i) (hop : w.extractLsb' 24 8 = 0x30#8) :
    i = .nop := by
  obtain ⟨o, hacc, rfl⟩ := (Fields.decode_ok_iff _ i).mp h
  have hcode : o.layout.op = 0x30#8 := hacc.op.symm.trans hop
  cases o with
  | nop => rfl
  | _ => simp [Opcode.layout] at hcode

/-! ### The fields of the special registers -/

theorem ecauseCode_toNat (c : Option Cause) : (ecauseCode c).toNat = ecauseNumber c := by
  rcases c with _ | c
  · rfl
  · cases c <;> rfl

theorem RoundMode.code_toNat (m : RoundMode) : m.code.toNat = modeNumber m := by
  cases m <;> rfl

theorem tagCode_toNat (x : Option Wide) : (tagCode x).toNat = tagNumber x := by
  rcases x with _ | x
  · rfl
  · cases x <;> rfl

/-- C, OVS and ERR stand in bits 0, 1 and 2 of STATUS (10_state.md R15). -/
theorem Status.toWord_flags (t : Status) :
    t.toWord.getLsbD 0 = t.c ∧ t.toWord.getLsbD 1 = t.ovs ∧ t.toWord.getLsbD 2 = t.err := by
  simp only [Status.toWord, BitVec.getLsbD_append]
  simp

/-- ECAUSE stands in bits 6:3 of STATUS, with zeros above (10_state.md R15). -/
theorem Status.toWord_ecause (t : Status) :
    t.toWord.extractLsb' 3 4 = ecauseCode t.ecause ∧ t.toWord.extractLsb' 7 57 = 0 := by
  constructor
  · simp only [Status.toWord, BitVec.extractLsb'_append_eq_of_le, BitVec.extractLsb'_append_eq_right, Nat.reduceLeDiff,
      Nat.reduceSub]
  · simp only [Status.toWord, BitVec.extractLsb'_append_eq_of_le, BitVec.extractLsb'_eq_self, Nat.reduceLeDiff,
      Nat.reduceSub]
    rfl

/-- RM stands in bits 2:0 of CTRL, with zeros above (10_state.md R16). -/
theorem RoundMode.toWord_fields (m : RoundMode) : m.toWord.extractLsb' 0 3 = m.code ∧ m.toWord.extractLsb' 3 61 = 0 :=
  ⟨BitVec.extractLsb'_append_eq_right, BitVec.extractLsb'_append_eq_left⟩

/-- The tag of each wide register stands in its two bits of TAGS (10_state.md R19). -/
theorem State.tagsWord_tag (s : State) (r : WReg) : s.tagsWord.extractLsb' (2 * r.val) 2 = tagCode (s.wide r) := by
  unfold State.tagsWord
  fin_cases r <;>
    simp only [BitVec.extractLsb'_append_eq_of_le, BitVec.extractLsb'_append_eq_right, Nat.reduceMul, Nat.reduceLeDiff,
      Nat.reduceSub, Fin.reduceFinMk]

theorem State.tagsWord_high (s : State) : s.tagsWord.extractLsb' 16 48 = 0 := by
  simp only [State.tagsWord, BitVec.extractLsb'_append_eq_of_le, BitVec.extractLsb'_eq_self, Nat.reduceLeDiff,
    Nat.reduceSub]
  rfl

/-! ### RDSR and WRSR -/

/-- RDSR of a defined register answers its word (45_system.md R111). -/
theorem onlyAnswers_rdsr {s : State} {sr : Nat} {v : Word} (h : s.specialWord sr = some v) :
    OnlyAnswers (.rdsr sr) s v := by
  have hbody : rdsrBody sr s = .ok (s.answer v) := by simp only [rdsrBody, h]
  exact exec_of_body_ok (exec_rdsr sr s) hbody

/-- RDSR of an undefined register faults (45_system.md R111). -/
theorem faults_index_of_rdsr (s : State) {sr : Nat} (h : 5 ≤ sr) : Faults (.rdsr sr) s .index := by
  rcases rdsrBody_cases sr s with ⟨-, hb⟩ | ⟨_, hlt, -⟩
  · exact faults_of_body_error (exec_rdsr sr s) hb
  · omega

theorem modeNumber_lt (m : RoundMode) : modeNumber m < 5 := by
  cases m <;> decide

/-- The value of CTRL that names a mode is the mode's number (10_state.md R16, 45_system.md R112). -/
theorem ctrl_names_mode_iff (v : Word) (m : RoundMode) :
    (v.extractLsb' 3 61 = 0 ∧ RoundMode.ofCode (v.extractLsb' 0 3) = some m) ↔ v.toNat = modeNumber m := by
  have hlt := modeNumber_lt m
  have hhigh : v.extractLsb' 3 61 = 0 ↔ v.toNat / 8 % 2 ^ 61 = 0 := by
    rw [← BitVec.toNat_inj, BitVec.extractLsb'_toNat, Nat.shiftRight_eq_div_pow]
    rfl
  have hlow : RoundMode.ofCode (v.extractLsb' 0 3) = some m ↔ modeNumber m = v.toNat % 8 := by
    rw [RoundMode.ofCode_eq_some_iff, ← BitVec.toNat_inj, RoundMode.code_toNat, BitVec.extractLsb'_toNat]
    rfl
  rw [hhigh, hlow]
  omega

/-- WRSR of CTRL with a legal value writes the mode and completes (45_system.md R112). -/
theorem wrsrBody_ctrl {s : State} {m : RoundMode} (h : s.opa.toNat = modeNumber m) :
    wrsrBody 1 s = .ok ((s.setRm m).answer 0) := by
  obtain ⟨hhigh, hlow⟩ := (ctrl_names_mode_iff s.opa m).mpr h
  simp only [wrsrBody, ne_eq, not_true_eq_false, if_false, hhigh, hlow]

/-- WRSR of CTRL with any other value ends in BADVAL (45_system.md R112). -/
theorem wrsrBody_badval {s : State} (h : 5 ≤ s.opa.toNat) : wrsrBody 1 s = .error .badval := by
  rcases wrsrBody_cases 1 s with ⟨hne, -⟩ | ⟨-, -, hb⟩ | ⟨m, -, hhigh, hlow, -⟩
  · exact absurd rfl hne
  · exact hb
  · have hopa := (ctrl_names_mode_iff s.opa m).mp ⟨hhigh, hlow⟩
    have hlt := modeNumber_lt m
    omega

/-! ### The obligations -/

/-- Settles O48: each defined register answers its word, whose fields are read off one by one. -/
theorem rdsrAnswersTheSpecialRegister : Obligations.RdsrAnswersTheSpecialRegister := by
  refine ⟨fun sr => decode_word_rdsr, fun s => ⟨fun sr => faults_index_of_rdsr s, ?_, ?_, onlyAnswers_rdsr rfl,
    ⟨_, onlyAnswers_rdsr rfl, isResultWord_toWord s.rres⟩, ?_⟩⟩
  · obtain ⟨hc, hovs, herr⟩ := s.status.toWord_flags
    obtain ⟨hecause, hhigh⟩ := s.status.toWord_ecause
    exact ⟨_, onlyAnswers_rdsr rfl, hc, hovs, herr, by rw [hecause, ecauseCode_toNat], hhigh⟩
  · obtain ⟨hrm, hhigh⟩ := s.rm.toWord_fields
    exact ⟨_, onlyAnswers_rdsr rfl, by rw [hrm, RoundMode.code_toNat], hhigh⟩
  · exact ⟨_, onlyAnswers_rdsr rfl, fun r => by rw [s.tagsWord_tag, tagCode_toNat], s.tagsWord_high⟩

/-- Settles O49: the checks of WRSR in order, and the mode that a legal value names. -/
theorem wrsrWritesOnlyCtrl : Obligations.WrsrWritesOnlyCtrl := by
  refine ⟨fun sr => decode_word_wrsr, fun s => ⟨fun sr hne => ?_, fun hopa => ?_, fun m hopa => ?_⟩⟩
  · exact faults_of_body_error (exec_wrsr sr s) (by rw [wrsrBody, if_pos hne])
  · exact faults_of_body_error (exec_wrsr 1 s) (wrsrBody_badval hopa)
  · exact exec_of_body_ok (exec_wrsr 1 s) (wrsrBody_ctrl hopa)

/-- Settles O47: a word with NOP's operation code decodes to NOP or not at all. -/
theorem nopChangesNothing : Obligations.NopChangesNothing := by
  refine ⟨decode_eq_nop_iff, fun s c rest hcmds hop hne => ?_, fun s => exec_of_body_ok (exec_nop s) rfl⟩
  cases hdec : decode c.insn with
  | ok i =>
    rw [eq_nop_of_decode hdec hop, decode_eq_nop_iff] at hdec
    exact absurd hdec hne
  | error e => exact ⟨_, step_of_decode_error hcmds hdec, (s.accept c rest).raise_squashed .illegal⟩

/-- Settles O50: the state CLRST leaves is the one its mask names. -/
theorem clrstClearsOnlyItsBits : Obligations.ClrstClearsOnlyItsBits := by
  refine ⟨decode_word_clrst, fun m s => exec_of_body_ok (exec_clrst m s) ?_⟩
  rw [clrstBody, State.clear_eq rfl rfl]
  rfl

end Sys2Proof.Machine
end

section
/-! PROOF. The causes of a fault (60_exceptions.md R121, R122): a command ends as the lowest of the causes whose condition
holds says, and completes when none does. Said once for every command by `exec_endsAsRaised`, and for the step, with ILLEGAL,
by `step_endsAsRaised`. -/

namespace Sys2Proof

/-- The commands that check more than the tags of their sources: a word index, a special-register number or a value
(60_exceptions.md R121: INDEX, BADVAL, TRUNCBUG). -/
def Instr.checksOperand : Instr → Bool
  | .insw _ _ => true
  | .rdw _ _ => true
  | .rnd _ _ _ _ => true
  | .rdsr _ => true
  | .wrsr _ => true
  | _ => false

end Sys2Proof

namespace Sys2Proof.Machine

open Sys2Proof.Claims

/-! ### The conditions of a command that decodes -/

/-- The conditions of R121 for the command itself, which no longer can be ILLEGAL. -/
def CommandRaises (s : State) (i : Instr) : Cause → Prop
  | .illegal => False
  | .empty => ∃ r ∈ i.sources, s.wide r = none
  | .width => RaisesWidth s i
  | .index => RaisesIndex s i
  | .badval => RaisesBadval s i
  | .truncbug => RaisesTruncbug s i

/-- A command that decoded is not ILLEGAL. -/
@[simp] theorem not_commandRaises_illegal (s : State) (i : Instr) : ¬CommandRaises s i .illegal := id

/-- A word decodes exactly when some row of the table selects it, so ILLEGAL excludes the other conditions
(30_encoding.md R52). -/
theorem raises_illegal_iff (s : State) (w : CmdWord) : Raises s w .illegal ↔ ∀ i, decode w ≠ .ok i := by
  obtain ⟨-, -, hrow, hdec⟩ := decoderAgreesWithOpcodeTable
  constructor
  · intro hnone i hi
    obtain ⟨row, hmem, -, hsel⟩ := hrow w i hi
    exact Bool.false_ne_true ((hnone row hmem).symm.trans hsel)
  · intro hno row hmem
    refine Bool.eq_false_iff.mpr fun hsel => ?_
    obtain ⟨i, hi, -⟩ := hdec w row hmem hsel
    exact hno i hi

/-- The conditions of a word that decodes are those of its command. -/
theorem raises_iff_of_decode_ok {s : State} {w : CmdWord} {i : Instr} (h : decode w = .ok i) (c : Cause) :
    Raises s w c ↔ CommandRaises s i c := by
  have hcommand : ∀ P : Instr → Prop, (∃ j, decode w = .ok j ∧ P j) ↔ P i := by simp [h]
  cases c with
  | illegal => exact (raises_illegal_iff s w).trans (iff_false_intro fun hno => hno i h)
  | _ => exact hcommand _

/-- A word that does not decode raises ILLEGAL and nothing else. -/
theorem raises_iff_of_decode_error {s : State} {w : CmdWord} {e : Illegal} (h : decode w = .error e) (c : Cause) :
    Raises s w c ↔ c = .illegal := by
  cases c with
  | illegal => simp [raises_illegal_iff, h]
  | _ => simp [Raises, h]

/-- A command without an operand check raises EMPTY or WIDTH only. -/
theorem CommandRaises.of_not_checksOperand {s : State} {i : Instr} {c : Cause} (h : CommandRaises s i c)
    (hi : i.checksOperand = false) : c = .empty ∨ c = .width := by
  cases c with
  | illegal => cases h
  | empty => exact .inl rfl
  | width => exact .inr rfl
  | index => rcases h with ⟨_, _, _, rfl, _⟩ | ⟨_, _, _, rfl, _⟩ | ⟨_, rfl, _⟩ | ⟨_, rfl, _⟩ <;> cases hi
  | badval => rcases h with ⟨_, _, _, _, rfl, _⟩ | ⟨rfl, _⟩ <;> cases hi
  | truncbug => obtain ⟨_, _, _, _, _, rfl, _⟩ := h; cases hi

/-! ### The lowest cause -/

/-- The condition of `c` holds and no condition of a cause with a lower code does (60_exceptions.md R122). -/
def Lowest (P : Cause → Prop) (c : Cause) : Prop := P c ∧ ∀ lower, causeNumber lower < causeNumber c → ¬P lower

theorem causeNumber_injective {c d : Cause} (h : causeNumber c = causeNumber d) : c = d := by
  revert h; cases c <;> cases d <;> decide

theorem Cause.code_toNat (c : Cause) : c.code.toNat = causeNumber c := by
  cases c <;> rfl

theorem Lowest.unique {P : Cause → Prop} {c d : Cause} (hc : Lowest P c) (hd : Lowest P d) : c = d := by
  obtain ⟨hPc, hlowc⟩ := hc
  obtain ⟨hPd, hlowd⟩ := hd
  have hle : causeNumber c ≤ causeNumber d := not_lt.mp fun hlt => hlowc d hlt hPd
  have hge : causeNumber d ≤ causeNumber c := not_lt.mp fun hlt => hlowd c hlt hPc
  exact causeNumber_injective (hle.antisymm hge)

theorem Lowest.congr {P Q : Cause → Prop} {c : Cause} (h : Lowest P c) (hPQ : ∀ d, Q d ↔ P d) : Lowest Q c :=
  ⟨(hPQ c).mpr h.1, fun d hlt hQ => h.2 d hlt ((hPQ d).mp hQ)⟩

/-- The six causes one by one (60_exceptions.md R120). -/
theorem Cause.forall_iff {P : Cause → Prop} :
    (∀ c, P c) ↔ P .illegal ∧ P .empty ∧ P .width ∧ P .index ∧ P .badval ∧ P .truncbug := by
  constructor
  · exact fun h => ⟨h _, h _, h _, h _, h _, h _⟩
  · rintro ⟨h1, h2, h3, h4, h5, h6⟩ c
    cases c <;> assumption

/-- A body ends as the conditions `P` say: in the lowest cause that holds, or, when none does, with a response that is no
fault. -/
inductive EndsAsRaised (P : Cause → Prop) : Except Cause State → Prop where
  /-- A check failed. -/
  | fault {c : Cause} (h : Lowest P c) : EndsAsRaised P (.error c)
  /-- Every check passed. -/
  | done {t : State} {v : Word} (hrsp : t.rsp = some ⟨false, 0, v⟩) (hno : ∀ c, ¬P c) : EndsAsRaised P (.ok t)

/-! ### The shapes of the checks -/

section
variable {s t : State} {i : Instr} {b : Except Cause State} {r : WReg} {c : Cause} {bad good : Wide → Prop}
  {f : Wide → State} {v : Word} {g : Wide → Word}

/-- SETW, NOP, CLRST: no source and no check. -/
theorem endsAsRaised_of_no_check (hsrc : i.sources = []) (hop : i.checksOperand = false) (hw : ¬RaisesWidth s i)
    (hrsp : t.rsp = some ⟨false, 0, v⟩) : EndsAsRaised (CommandRaises s i) (.ok t) := by
  refine .done hrsp fun d hd => ?_
  rcases hd.of_not_checksOperand hop with rfl | rfl
  · simp [CommandRaises, hsrc] at hd
  · exact hw hd

/-- One source that must not be EMPTY, and then one check of its value, which raises `c` where the value is `bad`. -/
theorem endsAsRaised_of_source (hsrc : i.sources = [r])
    (hc : CommandRaises s i c ↔ ∃ x, s.wide r = some x ∧ bad x)
    (hother : ∀ d, CommandRaises s i d → d = .empty ∨ d = c) (hgood : ∀ x, good x → ¬bad x)
    (hrsp : ∀ x, (f x).rsp = some ⟨false, 0, g x⟩)
    (hb : (s.wide r = none ∧ b = .error .empty) ∨ (∃ x, s.wide r = some x ∧ bad x ∧ b = .error c) ∨
      ∃ x, s.wide r = some x ∧ good x ∧ b = .ok (f x)) :
    EndsAsRaised (CommandRaises s i) b := by
  have hempty : CommandRaises s i .empty ↔ s.wide r = none := by simp [CommandRaises, hsrc]
  rcases hb with ⟨hr, rfl⟩ | ⟨x, hr, hbad, rfl⟩ | ⟨x, hr, hx, rfl⟩
  · refine .fault ⟨hempty.mpr hr, fun d hlt hd => ?_⟩
    rcases hother d hd with rfl | rfl
    · exact lt_irrefl _ hlt
    · obtain ⟨x, hx, -⟩ := hc.mp hd
      simp [hr] at hx
  · refine .fault ⟨hc.mpr ⟨x, hr, hbad⟩, fun d hlt hd => ?_⟩
    rcases hother d hd with rfl | rfl
    · simp [hempty, hr] at hd
    · exact lt_irrefl _ hlt
  · refine .done (hrsp x) fun d hd => ?_
    rcases hother d hd with rfl | rfl
    · simp [hempty, hr] at hd
    · obtain ⟨y, hy, hbad⟩ := hc.mp hd
      obtain rfl : x = y := Option.some.inj (hr.symm.trans hy)
      exact hgood x hx hbad

/-- WIDEN, NARROW, MUL, DIVC, SHL, SHLI, CLZ, CLZT: the check is one of the source's width. -/
theorem endsAsRaised_of_width (hsrc : i.sources = [r]) (hop : i.checksOperand = false)
    (hw : RaisesWidth s i ↔ ∃ x, s.wide r = some x ∧ bad x) (hgood : ∀ x, good x → ¬bad x)
    (hrsp : ∀ x, (f x).rsp = some ⟨false, 0, g x⟩)
    (hb : (s.wide r = none ∧ b = .error .empty) ∨ (∃ x, s.wide r = some x ∧ bad x ∧ b = .error .width) ∨
      ∃ x, s.wide r = some x ∧ good x ∧ b = .ok (f x)) :
    EndsAsRaised (CommandRaises s i) b :=
  endsAsRaised_of_source (c := .width) hsrc hw (fun _ hd => hd.of_not_checksOperand hop) hgood hrsp hb

end

/-! ### Each command -/

section
variable {s : State} {i : Instr} {w : Width} {rd rs1 rs2 : WReg}

theorem inswBody_endsAsRaised (j : Nat) : EndsAsRaised (CommandRaises s (.insw rd j)) (inswBody rd j s) := by
  refine endsAsRaised_of_source (c := .index) rfl (by simp [CommandRaises, RaisesIndex]) (fun d hd => ?_)
    (fun _ => not_le_of_gt) (fun _ => rfl) (inswBody_cases rd j s)
  cases d <;> simp [CommandRaises, RaisesWidth, RaisesBadval, RaisesTruncbug] at hd ⊢

theorem rdwBody_endsAsRaised (j : Nat) : EndsAsRaised (CommandRaises s (.rdw rs1 j)) (rdwBody rs1 j s) := by
  refine endsAsRaised_of_source (c := .index) rfl (by simp [CommandRaises, RaisesIndex]) (fun d hd => ?_)
    (fun _ => not_le_of_gt) (fun _ => rfl) (rdwBody_cases rs1 j s)
  cases d <;> simp [CommandRaises, RaisesWidth, RaisesBadval, RaisesTruncbug] at hd ⊢

/-- ADD checks both sources for EMPTY before it checks either for WIDTH (60_exceptions.md R122). -/
theorem addBody_endsAsRaised : EndsAsRaised (CommandRaises s (.addAt w rd rs1 rs2)) (addBody w rd rs1 rs2 s) := by
  have hop : (Instr.addAt w rd rs1 rs2).checksOperand = false := by cases w <;> rfl
  have hempty : CommandRaises s (.addAt w rd rs1 rs2) .empty ↔ s.wide rs1 = none ∨ s.wide rs2 = none := by
    cases w <;> simp [CommandRaises, Instr.addAt, Instr.sources]
  have hwidth : CommandRaises s (.addAt w rd rs1 rs2) .width ↔ OtherWidth s rs1 w ∨ OtherWidth s rs2 w := by
    cases w <;> rfl
  rcases addBody_cases w rd rs1 rs2 s with ⟨hnone, hb⟩ | ⟨x, y, hx, hy, hw, hb⟩ | ⟨x, y, hx, hy, hxw, hyw, hb⟩ <;> rw [hb]
  · refine .fault ⟨hempty.mpr hnone, fun d hlt hd => ?_⟩
    rcases hd.of_not_checksOperand hop with rfl | rfl <;> simp [causeNumber] at hlt
  · refine .fault ⟨hwidth.mpr ?_, fun d hlt hd => ?_⟩
    · exact (not_and_or.mp hw).imp (fun h => ⟨x, hx, h⟩) (fun h => ⟨y, hy, h⟩)
    · rcases hd.of_not_checksOperand hop with rfl | rfl
      · simp [hempty, hx, hy] at hd
      · exact lt_irrefl _ hlt
  · refine .done rfl fun d hd => ?_
    rcases hd.of_not_checksOperand hop with rfl | rfl
    · simp [hempty, hx, hy] at hd
    · simp [hwidth, OtherWidth, hx, hy, hxw, hyw] at hd

theorem rdsrBody_endsAsRaised (sr : Nat) : EndsAsRaised (CommandRaises s (.rdsr sr)) (rdsrBody sr s) := by
  have hindex : ∀ d, CommandRaises s (.rdsr sr) d ↔ d = .index ∧ 5 ≤ sr := by
    intro d
    cases d <;> simp [CommandRaises, Instr.sources, RaisesWidth, RaisesIndex, RaisesBadval, RaisesTruncbug]
  rcases rdsrBody_cases sr s with ⟨hsr, hb⟩ | ⟨v, hsr, -, hb⟩ <;> rw [hb]
  · refine .fault ⟨(hindex _).mpr ⟨rfl, hsr⟩, fun d hlt hd => ?_⟩
    obtain ⟨rfl, -⟩ := (hindex d).mp hd
    exact lt_irrefl _ hlt
  · exact .done rfl fun d hd => hsr.not_ge ((hindex d).mp hd).2

/-- The reserved mode numbers are 5, 6 and 7 (10_state.md R16). -/
theorem RoundMode.ofCode_eq_none_iff (c : BitVec 3) : RoundMode.ofCode c = none ↔ 5 ≤ c.toNat := by
  revert c; decide

/-- WRSR checks the register's number before its value (60_exceptions.md R122). -/
theorem wrsrBody_endsAsRaised (sr : Nat) : EndsAsRaised (CommandRaises s (.wrsr sr)) (wrsrBody sr s) := by
  have hindex : CommandRaises s (.wrsr sr) .index ↔ sr ≠ 1 := by simp [CommandRaises, RaisesIndex]
  have hbadval : CommandRaises s (.wrsr sr) .badval ↔
      sr = 1 ∧ (s.opa.extractLsb' 3 61 ≠ 0 ∨ RoundMode.ofCode (s.opa.extractLsb' 0 3) = none) := by
    simp [CommandRaises, RaisesBadval, RoundMode.ofCode_eq_none_iff]
  have hother : ∀ d, CommandRaises s (.wrsr sr) d → d = .index ∨ d = .badval := by
    intro d hd
    cases d <;> simp [CommandRaises, Instr.sources, RaisesWidth, RaisesTruncbug] at hd ⊢
  rcases wrsrBody_cases sr s with ⟨hsr, hb⟩ | ⟨hsr, hbad, hb⟩ | ⟨m, hsr, hhigh, hlow, hb⟩ <;> rw [hb]
  · refine .fault ⟨hindex.mpr hsr, fun d hlt hd => ?_⟩
    rcases hother d hd with rfl | rfl <;> simp [causeNumber] at hlt
  · refine .fault ⟨hbadval.mpr ⟨hsr, hbad⟩, fun d hlt hd => ?_⟩
    rcases hother d hd with rfl | rfl
    · exact hindex.mp hd hsr
    · exact lt_irrefl _ hlt
  · refine .done rfl fun d hd => ?_
    rcases hother d hd with rfl | rfl
    · exact hindex.mp hd hsr
    · simp [hbadval, hhigh, hlow] at hd

end

/-! ### RND -/

/-- RND's check (4): TRUNCBUG exactly under its condition, else a final pair (44_round.md R97; 60_exceptions.md R121). -/
theorem reduce_cases {maxBexp s : Nat} (hs : s < 2 ^ 128) (m : RoundMode) (neg : Bool) (t : TruncFlag) (e : Int) :
    ((s < 10 ^ 34 ∧ 0 ≤ e ∧ t ≠ .exact ∧ (e ≤ maxBexp ∨ s = 0)) ∧ reduce maxBexp m neg t s e = .error .truncbug) ∨
    (¬(s < 10 ^ 34 ∧ 0 ≤ e ∧ t ≠ .exact ∧ (e ≤ maxBexp ∨ s = 0)) ∧
      ∃ q2 e2, reduce maxBexp m neg t s e = .ok (q2, e2)) := by
  by_cases hbug : s < 10 ^ 34 ∧ 0 ≤ e ∧ t ≠ .exact ∧ (e ≤ maxBexp ∨ s = 0)
  · obtain ⟨hlt, he, ht, hmax⟩ := hbug
    exact .inl ⟨⟨hlt, he, ht, hmax⟩, reduce_eq_truncbug hlt he ht hmax.symm⟩
  · refine .inr ⟨hbug, ?_⟩
    by_cases hk : dropCount s e = 0
    · obtain ⟨⟨hlt, he⟩, -⟩ := dropCount_isLeast e hs
      have hok : (s ≠ 0 ∧ (maxBexp : Int) < e) ∨ t = .exact := by
        by_contra hno
        refine hbug ⟨by simpa [hk] using hlt, by simpa [hk] using he, fun ht => hno (.inr ht), ?_⟩
        by_contra hmax
        exact hno (.inl ⟨fun h0 => hmax (.inr h0), not_le.mp fun hle => hmax (.inl hle)⟩)
      exact ⟨s, e, by rw [reduce_of_dropCount_eq_zero hk, if_pos hok]⟩
    · exact ⟨_, _, reduce_of_dropCount_ne_zero hk⟩

section
variable {s : State} {rd rs1 : WReg} {tf : TruncField} {neg : Bool} {x : Wide}

theorem commandRaises_rnd_empty_iff : CommandRaises s (.rnd rd rs1 tf neg) .empty ↔ s.wide rs1 = none := by
  simp [CommandRaises, Instr.sources]

theorem commandRaises_rnd_width_iff (hx : s.wide rs1 = some x) :
    CommandRaises s (.rnd rd rs1 tf neg) .width ↔ x.width ≠ .w128 := by
  simp [CommandRaises, RaisesWidth, OtherWidth, hx]

theorem not_commandRaises_rnd_index : ¬CommandRaises s (.rnd rd rs1 tf neg) .index := by
  simp [CommandRaises, RaisesIndex]

/-- RND's check (3) fails exactly under the condition of BADVAL (44_round.md R95; 60_exceptions.md R121). -/
theorem rndFlag_cases_of_raises (rd : WReg) (neg : Bool) (hx : s.wide rs1 = some x) :
    (CommandRaises s (.rnd rd rs1 tf neg) .badval ∧ rndFlag tf s.opa x.toNat = .error .badval) ∨
    (¬CommandRaises s (.rnd rd rs1 tf neg) .badval ∧
      ∃ t, truncValue tf = some t ∧ rndFlag tf s.opa x.toNat = .ok t) := by
  have hbadval : CommandRaises s (.rnd rd rs1 tf neg) .badval ↔
      tf = .reserved ∨ isSext32 s.opa = false ∨ (x.toNat = 0 ∧ tf = .above) := by
    simp [CommandRaises, RaisesBadval, hx, isSext32_eq_false_iff, and_comm]
  rw [hbadval]
  rcases rndFlag_cases tf s.opa x.toNat with hbad | ⟨t, hval, hsext, hzero, hflag⟩
  · exact .inl hbad
  · refine .inr ⟨?_, t, hval, hflag⟩
    rintro (rfl | hno | ⟨h0, rfl⟩)
    · cases hval
    · exact Bool.false_ne_true (hno.symm.trans hsext)
    · cases hval
      exact hzero ⟨h0, rfl⟩

/-- A legal flag is EXACT exactly when its field is (44_round.md R93). -/
theorem truncValue_exact_iff {t : TruncFlag} (h : truncValue tf = some t) : t = .exact ↔ tf = .exact := by
  cases tf <;> cases h <;> decide

/-- RND's check (4) fails exactly under the condition of TRUNCBUG (44_round.md R97; 60_exceptions.md R121). -/
theorem reduce_cases_of_raises {t : TruncFlag} (rd : WReg) (hx : s.wide rs1 = some x) (hw : x.width = .w128)
    (ht : truncValue tf = some t) :
    (CommandRaises s (.rnd rd rs1 tf neg) .truncbug ∧
      reduce s.config.maxBexp.val s.rm neg t x.toNat (signed32 s.opa) = .error .truncbug) ∨
    (¬CommandRaises s (.rnd rd rs1 tf neg) .truncbug ∧
      ∃ q2 e2, reduce s.config.maxBexp.val s.rm neg t x.toNat (signed32 s.opa) = .ok (q2, e2)) := by
  have htruncbug : CommandRaises s (.rnd rd rs1 tf neg) .truncbug ↔
      x.toNat < 10 ^ 34 ∧ 0 ≤ signed32 s.opa ∧ t ≠ .exact ∧
        (signed32 s.opa ≤ s.config.maxBexp.val ∨ x.toNat = 0) := by
    simp [CommandRaises, RaisesTruncbug, hx, signed32, truncValue_exact_iff ht]
  have hlt : x.toNat < 2 ^ Width.bits .w128 := hw ▸ x.toNat_lt
  rw [htruncbug]
  exact reduce_cases hlt s.rm neg t (signed32 s.opa)

/-- RND's checks come in the order of the codes: EMPTY, WIDTH, BADVAL, TRUNCBUG (44_round.md R95). -/
theorem rndBody_endsAsRaised : EndsAsRaised (CommandRaises s (.rnd rd rs1 tf neg)) (rndBody rd rs1 tf neg s) := by
  have hempty := commandRaises_rnd_empty_iff (s := s) (rd := rd) (rs1 := rs1) (tf := tf) (neg := neg)
  have hindex := not_commandRaises_rnd_index (s := s) (rd := rd) (rs1 := rs1) (tf := tf) (neg := neg)
  cases hx : s.wide rs1 with
  | none =>
    simp only [rndBody, State.req_none hx]
    exact .fault (by simp [Lowest, Cause.forall_iff, causeNumber, hempty, hx])
  | some x =>
    have hwidth := commandRaises_rnd_width_iff (rd := rd) (tf := tf) (neg := neg) hx
    by_cases hw : x.width = .w128
    · rcases rndFlag_cases_of_raises (tf := tf) rd neg hx with ⟨hbad, hflag⟩ | ⟨hbad, t, hval, hflag⟩
      · simp only [rndBody, State.req_some hx hw, hflag]
        exact .fault (by simp [Lowest, Cause.forall_iff, causeNumber, hempty, hwidth, hindex, hbad, hx, hw])
      · rcases reduce_cases_of_raises (neg := neg) rd hx hw hval with ⟨hbug, hred⟩ | ⟨hbug, q2, e2, hred⟩
        · simp only [rndBody, State.req_some hx hw, hflag, hred]
          exact .fault (by simp [Lowest, Cause.forall_iff, causeNumber, hempty, hwidth, hindex, hbad, hbug, hx, hw])
        · simp only [rndBody, State.req_some hx hw, hflag, hred]
          exact .done rfl (by simp [Cause.forall_iff, hempty, hwidth, hindex, hbad, hbug, hx, hw])
    · simp only [rndBody, State.req_width hx hw]
      exact .fault (by simp [Lowest, Cause.forall_iff, causeNumber, hempty, hwidth, hx, hw])

end

/-! ### Every command, and the step -/

/-- Every command ends as its conditions say. -/
theorem exec_endsAsRaised (i : Instr) (s : State) :
    ∃ b, exec i s = s.settle b ∧ EndsAsRaised (CommandRaises s i) b := by
  have hne : ∀ (w : Width) (x : Wide), x.width = w → ¬x.width ≠ w := fun _ _ => not_not_intro
  rcases instr_shape i with ⟨w, rd, rfl⟩ | ⟨rd, j, rfl⟩ | ⟨rs, j, rfl⟩ | ⟨w, rd, rs, rfl⟩ | ⟨w, rd, rs, rfl⟩ |
    ⟨w, rd, rs, rt, rfl⟩ | ⟨w, rd, rs, rfl⟩ | ⟨w, rd, rs, d, rfl⟩ | ⟨w, rd, rs, rfl⟩ | ⟨w, rd, rs, n, rfl⟩ |
    ⟨w, rs, rfl⟩ | ⟨w, rs, rfl⟩ | ⟨rd, rs, tf, neg, rfl⟩ | rfl | ⟨sr, rfl⟩ | ⟨sr, rfl⟩ | ⟨m, rfl⟩
  · refine ⟨_, exec_setwAt w rd s, ?_⟩
    cases w <;> exact endsAsRaised_of_no_check rfl rfl id rfl
  · exact ⟨_, exec_insw rd j s, inswBody_endsAsRaised j⟩
  · exact ⟨_, exec_rdw rs j s, rdwBody_endsAsRaised j⟩
  · refine ⟨_, exec_widenAt w rd rs s, ?_⟩
    cases w <;>
      exact endsAsRaised_of_width rfl rfl .rfl (fun _ => not_lt_of_ge) (fun _ => rfl) (widenBody_cases _ rd rs s)
  · refine ⟨_, exec_narrowAt w rd rs s, ?_⟩
    cases w <;>
      exact endsAsRaised_of_width rfl rfl .rfl (fun _ => not_lt_of_ge) (fun _ => rfl) (narrowBody_cases _ rd rs s)
  · exact ⟨_, exec_addAt w rd rs rt s, addBody_endsAsRaised⟩
  · refine ⟨_, exec_mulAt w rd rs s, ?_⟩
    cases w <;> exact endsAsRaised_of_width rfl rfl .rfl (hne _) (fun _ => rfl) (mulBody_cases _ rd rs s)
  · refine ⟨_, exec_divcAt w rd rs d s, ?_⟩
    cases w <;> exact endsAsRaised_of_width rfl rfl .rfl (hne _) (fun _ => rfl) (divcBody_cases _ rd rs d s)
  · refine ⟨_, exec_shlAt w rd rs s, ?_⟩
    cases w <;> exact endsAsRaised_of_width rfl rfl .rfl (hne _) (fun _ => rfl) (shiftBody_cases _ rd rs _ s)
  · refine ⟨_, exec_shliAt w rd rs n s, ?_⟩
    cases w <;> exact endsAsRaised_of_width rfl rfl .rfl (hne _) (fun _ => rfl) (shiftBody_cases _ rd rs n s)
  · refine ⟨_, exec_clzAt w rs s, ?_⟩
    cases w <;> exact endsAsRaised_of_width rfl rfl .rfl (hne _) (fun _ => rfl) (clzBody_cases _ rs s)
  · refine ⟨_, exec_clztAt w rs s, ?_⟩
    cases w <;> exact endsAsRaised_of_width rfl rfl .rfl (hne _) (fun _ => rfl) (clztBody_cases _ rs s)
  · exact ⟨_, exec_rnd rd rs tf neg s, rndBody_endsAsRaised⟩
  · exact ⟨_, exec_nop s, endsAsRaised_of_no_check rfl rfl id rfl⟩
  · exact ⟨_, exec_rdsr sr s, rdsrBody_endsAsRaised sr⟩
  · exact ⟨_, exec_wrsr sr s, wrsrBody_endsAsRaised sr⟩
  · exact ⟨_, exec_clrst m s, endsAsRaised_of_no_check rfl rfl id rfl⟩

/-- How a step that takes a command ends: the lowest cause whose condition holds is entered on the state that accepted the
command, or no condition holds and the response is no fault (60_exceptions.md R121, R122, R124). -/
theorem step_endsAsRaised {s t : State} {c : Command} {rest : List Command} (hcmds : s.cmds = c :: rest)
    (h : step s = .next t) :
    (∃ cause, t = (s.accept c rest).raise cause ∧ Lowest (Raises (s.accept c rest) c.insn) cause) ∨
    (∃ v, t.rsp = some ⟨false, 0, v⟩) ∧ ∀ cause, ¬Raises (s.accept c rest) c.insn cause := by
  cases hdec : decode c.insn with
  | error e =>
    rw [step_of_decode_error hcmds hdec] at h
    cases h
    have hraises := raises_iff_of_decode_error (s := s.accept c rest) hdec
    exact .inl ⟨.illegal, rfl, by simp [Lowest, hraises, causeNumber, Cause.forall_iff]⟩
  | ok i =>
    have hraises := raises_iff_of_decode_ok (s := s.accept c rest) hdec
    obtain ⟨b, hexec, hends⟩ := exec_endsAsRaised i (s.accept c rest)
    rw [step_of_decode_ok hcmds hdec, hexec] at h
    cases hends with
    | fault hlow =>
      cases h
      exact .inl ⟨_, rfl, hlow.congr hraises⟩
    | done hrsp hno =>
      cases h
      exact .inr ⟨⟨_, hrsp⟩, fun cause hcause => hno cause ((hraises cause).mp hcause)⟩

/-! ### The obligations -/

/-- Settles O15: the cause entered is the lowest that holds, and there is only one such. -/
theorem eachCauseIsReportedExactlyWhenItHolds : Obligations.EachCauseIsReportedExactlyWhenItHolds := by
  intro s t c rest hcmds h
  rcases step_endsAsRaised hcmds h with ⟨cause, rfl, hlow⟩ | ⟨⟨v, hrsp⟩, hno⟩
  · refine ⟨fun d => ⟨?_, fun hd => ?_⟩, ?_, fun hno => absurd hlow.1 (hno cause)⟩
    · rintro ⟨_, ⟨⟩, -, hcode⟩
      rw [Cause.code_toNat] at hcode
      exact causeNumber_injective hcode ▸ hlow
    · exact ⟨_, rfl, rfl, by rw [Cause.code_toNat, hlow.unique hd]⟩
    · rintro ⟨_, ⟨⟩, hf⟩
      cases hf
  · refine ⟨fun d => ⟨?_, fun hd => absurd hd.1 (hno d)⟩, fun _ => hno, fun _ => ⟨_, hrsp, rfl⟩⟩
    rintro ⟨r, hr, hf, -⟩
    rw [hrsp] at hr
    cases hr
    cases hf

/-- Settles O14: a response with fault = 1 is one that fault entry made. -/
theorem faultingCommandIsSquashed : Obligations.FaultingCommandIsSquashed := by
  intro s t c rest r hcmds h hr hf
  rcases step_endsAsRaised hcmds h with ⟨cause, rfl, -⟩ | ⟨⟨v, hrsp⟩, -⟩
  · cases hr
    exact ⟨cause, Cause.code_toNat cause, rfl, (s.accept c rest).raise_squashed cause⟩
  · rw [hrsp] at hr
    cases hr
    cases hf

end Sys2Proof.Machine
end

section
/-! PROOF. STATUS.ERR and STATUS.ECAUSE (60_exceptions.md R123, R126): which command writes them, and that no command but
RDSR of STATUS looks at them. -/

namespace Sys2Proof.Machine

/-! ### What sets and clears ERR -/

/-- ERR and ECAUSE are left alone but by fault entry and by CLRST with mask bit 0 (60_exceptions.md R124, R126). -/
theorem Effect.err_cases {i : Instr} {s t : State} (h : Effect i s t) :
    (t.status.err = s.status.err ∧ t.status.ecause = s.status.ecause) ∨ (∃ c, t = s.raise c) ∨
      ∃ m, i = .clrst m ∧ m.getLsbD 0 = true ∧ t.status.err = false ∧ t.status.ecause = none := by
  cases h with
  | fault c => exact .inr (.inl ⟨c, rfl⟩)
  | clear m hi t ht u hu =>
    rw [State.clear_eq ht hu]
    cases hm : m.getLsbD 0 with
    | false => exact .inl (by simp)
    | true => exact .inr (.inr ⟨m, hi, hm, by simp⟩)
  | _ => exact .inl ⟨rfl, rfl⟩

/-- A fault on top of another keeps the first cause (60_exceptions.md R124). -/
theorem State.raise_of_err {s : State} (h : s.status.err = true) (c : Cause) :
    (s.raise c).status.err = true ∧ (s.raise c).status.ecause = s.status.ecause := by
  simp [h]

/-- Settles O17, by what each command does to ERR. -/
theorem onlyClrstClearsErr : Obligations.OnlyClrstClearsErr := by
  intro s t h herr
  rcases step_cases h with ⟨-, rfl⟩ | ⟨c, rest, hcmds, ⟨i, hdec, heff⟩ | ⟨-, rfl⟩⟩
  · exact .inl ⟨herr, rfl⟩
  · rcases heff.err_cases with ⟨hsame, hcause⟩ | ⟨cause, rfl⟩ | ⟨m, rfl, hm, hclear⟩
    · exact .inl ⟨hsame.trans herr, hcause⟩
    · exact .inl ((s.accept c rest).raise_of_err herr cause)
    · exact .inr ⟨c, rest, m, hcmds, hdec, hm, hclear⟩
  · exact .inl ((s.accept c rest).raise_of_err herr .illegal)

/-! ### What looks at ERR -/

/-- `s` with other values of ERR and ECAUSE. -/
def State.setErr (s : State) (e : Bool) (c : Option Cause) : State :=
  { s with status := { s.status with err := e, ecause := c } }

/-- ERR and ECAUSE are operands of RDSR of STATUS alone (60_exceptions.md R123, 45_system.md R111). -/
theorem sameOperands_setErr {i : Instr} (hi : i ≠ .rdsr 0) (s : State) (e : Bool) (c : Option Cause) :
    SameOperands i s (s.setErr e c) where
  wide _ _ := rfl
  opa := rfl
  rnd _ := ⟨rfl, rfl⟩
  special sr hsr := by
    rcases sr with _ | _ | _ | _ | _ | _
    · exact absurd hsr hi
    all_goals rfl

/-- OVS after a command other than CLRST: it is set with C by a command that writes C and does not fault
(10_state.md R15). -/
theorem Effect.ovs_eq {i : Instr} {s t : State} {r : Response} (h : Effect i s t) (hi : ∀ m, i ≠ .clrst m)
    (hr : t.rsp = some r) : t.status.ovs = (s.status.ovs || (i.writesCarry && !r.fault && t.status.c)) := by
  cases h with
  | clear m hm => exact absurd hm (hi m)
  | fault c => cases hr; simp
  | writeCarry rd w n hd hc => cases hr; simp [hc]
  | write rd w n hd hc | divide rd w n d hd hc | answer v hd hc => simp [hc]
  | round rd rs1 tf neg x t q2 e2 hm | mode m hm => subst hm; simp [Instr.writesCarry]

/-- CTRL.RM after WRSR of CTRL: the mode `opa` names, or as before (45_system.md R112). -/
theorem exec_wrsr_ctrl_rm {s t : State} (h : exec (.wrsr 1) s = .next t) :
    t.rm = if s.opa.extractLsb' 3 61 = 0 then (RoundMode.ofCode (s.opa.extractLsb' 0 3)).getD s.rm else s.rm := by
  rw [exec_wrsr] at h
  rcases wrsrBody_cases 1 s with ⟨hne, -⟩ | ⟨-, hbad, hb⟩ | ⟨m, -, hhigh, hlow, hb⟩
  · exact absurd rfl hne
  · rw [hb] at h
    cases h
    rcases hbad with hhigh | hlow
    · rw [if_neg hhigh]; rfl
    · simp [hlow]
  · rw [hb] at h
    cases h
    simp [hhigh, hlow]

/-- A part of the state that two completions agree on where the command writes it, and that each leaves as it was where the
command does not, is the same after both. -/
theorem eq_of_written_or_kept {α : Type} {written : Bool} {x y y' : α} (hwritten : written = true → y' = y)
    (hkept : written = false → y = x) (hkept' : written = false → y' = x) : y' = y := by
  cases h : written with
  | true => exact hwritten h
  | false => exact (hkept' h).trans (hkept h).symm

/-- Settles O16: a fault enters on both states alike; CLRST is read off its rule; of any other command the completions agree
on what it writes, and the rest is as before. -/
theorem errAndEcauseInfluenceNothing : Obligations.ErrAndEcauseInfluenceNothing := by
  intro i s t t' e c hi ht ht'
  have hsame : SameOperands i s (s.setErr e c) := sameOperands_setErr hi s e c
  by_cases hclr : ∃ m, i = .clrst m
  · obtain ⟨m, rfl⟩ := hclr
    obtain ⟨-, hexec⟩ := clrstClearsOnlyItsBits
    rw [hexec] at ht ht'
    cases ht
    cases ht'
    exact ⟨rfl, fun _ => rfl, rfl, rfl, rfl, rfl, rfl⟩
  rcases exec_sameResult_cases hsame ht ht' with ⟨cause, rfl, rfl⟩ | hwrites
  · exact ⟨rfl, fun _ => rfl, rfl, rfl, rfl, rfl, rfl⟩
  have heff := exec_effect ht
  have heff' : Effect i (s.setErr e c) t' := exec_effect ht'
  obtain ⟨r, hr, -⟩ := heff.rsp
  have hcarry : t'.status.c = t.status.c := eq_of_written_or_kept hwrites.carry heff.carry_eq heff'.carry_eq
  have hwide : ∀ r, t'.wide r = t.wide r := fun r => by
    by_cases hd : i.dest = some r
    · exact hwrites.dest r hd
    · have hkept := (heff.wide_cases r).resolve_right fun h => hd h.1
      have hkept' := (heff'.wide_cases r).resolve_right fun h => hd h.1
      exact hkept'.trans hkept.symm
  have hovs : t'.status.ovs = t.status.ovs := by
    have hno : ∀ m, i ≠ .clrst m := not_exists.mp hclr
    rw [heff.ovs_eq hno hr, heff'.ovs_eq hno (hwrites.rsp.trans hr), hcarry]
    rfl
  have hrm : t'.rm = t.rm := by
    by_cases hctrl : i = .wrsr 1
    · subst hctrl
      exact (exec_wrsr_ctrl_rm ht').trans (exec_wrsr_ctrl_rm ht).symm
    · exact (heff'.rm_eq hctrl).trans (heff.rm_eq hctrl).symm
  exact ⟨hwrites.rsp, hwide, hcarry, hovs, hrm, eq_of_written_or_kept hwrites.rem heff.rem_eq heff'.rem_eq,
    eq_of_written_or_kept hwrites.rres heff.rres_eq heff'.rres_eq⟩

end Sys2Proof.Machine
end

section
/-! PROOF. Sequences of commands (60_exceptions.md section 3): along a run without a CLRST of mask bit 0, ERR is set by the
first response with fault = 1, which leaves its cause in ECAUSE, and both then stay. -/

namespace Sys2Proof.Machine

open Sys2Proof.Claims

/-! ### One command of the sequence -/

/-- The command `c` is no CLRST with mask bit 0 set (45_system.md R113). -/
def KeepsErr (c : Command) : Prop := ∀ m, decode c.insn = .ok (.clrst m) → m.getLsbD 0 = false

/-- A command that does not clear ERR either faults, or answers with fault = 0 and leaves ERR and ECAUSE alone. -/
theorem step_err_cases {s t : State} {c : Command} {rest : List Command} (hcmds : s.cmds = c :: rest) (hc : KeepsErr c)
    (h : step s = .next t) :
    (∃ cause, t = (s.accept c rest).raise cause) ∨
    ((∃ v, t.rsp = some ⟨false, 0, v⟩) ∧ t.status.err = s.status.err ∧ t.status.ecause = s.status.ecause) := by
  rcases step_endsAsRaised hcmds h with ⟨cause, rfl, -⟩ | ⟨hrsp, -⟩
  · exact .inl ⟨cause, rfl⟩
  rcases step_cases h with ⟨hnil, -⟩ | ⟨c', rest', hcons, ⟨i, hdec, heff⟩ | ⟨-, hraise⟩⟩
  · rw [hcmds] at hnil
    cases hnil
  all_goals
    rw [hcmds] at hcons
    cases hcons
  · rcases heff.err_cases with hsame | hraise | ⟨m, rfl, hm, -⟩
    · exact .inr ⟨hrsp, hsame⟩
    · exact .inl hraise
    · rw [hc m hdec] at hm
      cases hm
  · exact .inl ⟨.illegal, hraise⟩

/-! ### The responses of a run -/

/-- The first response of a run is the one its first step leaves. -/
theorem answeredAt_zero_iff {s t : State} (h : step s = .next t) (r : Response) : AnsweredAt s 0 r ↔ t.rsp = some r := by
  have hrun : Sys2Proof.core.run (0 + 1) s = .next t := core_run_succ 0 h
  constructor
  · rintro ⟨u, hu, hr⟩
    rw [hrun] at hu
    cases hu
    exact hr
  · exact fun hr => ⟨t, hrun, hr⟩

/-- The later responses of a run are those of the run that starts after its first step. -/
theorem answeredAt_succ_iff {s t : State} (h : step s = .next t) (j : Nat) (r : Response) :
    AnsweredAt s (j + 1) r ↔ AnsweredAt t j r := by
  simp only [AnsweredAt, core_run_succ (j + 1) h]

/-- Where the first response is no fault, a fault among `n + 1` responses is one among the `n` that follow. -/
theorem exists_fault_succ_iff {s t : State} {v : Word} (h : step s = .next t) (hrsp : t.rsp = some ⟨false, 0, v⟩)
    (n : Nat) :
    (∃ j r, j < n + 1 ∧ AnsweredAt s j r ∧ r.fault = true) ↔ ∃ j r, j < n ∧ AnsweredAt t j r ∧ r.fault = true := by
  constructor
  · rintro ⟨_ | j, r, hj, hr, hf⟩
    · rw [answeredAt_zero_iff h, hrsp] at hr
      cases hr
      cases hf
    · exact ⟨j, r, Nat.lt_of_succ_lt_succ hj, (answeredAt_succ_iff h j r).mp hr, hf⟩
  · rintro ⟨j, r, hj, hr, hf⟩
    exact ⟨j + 1, r, Nat.succ_lt_succ hj, (answeredAt_succ_iff h j r).mpr hr, hf⟩

/-! ### ERR along a run -/

/-- A run of `n + 1` commands that do not clear ERR is a step that takes one of them and a run of `n` such commands. -/
theorem run_succ_cases {n : Nat} {s t : State} (hlen : n + 1 ≤ s.cmds.length)
    (hkeep : ∀ c ∈ s.cmds.take (n + 1), KeepsErr c) (hrun : Sys2Proof.core.run (n + 1) s = .next t) :
    ∃ c rest u, s.cmds = c :: rest ∧ KeepsErr c ∧ step s = .next u ∧ n ≤ u.cmds.length ∧
      (∀ c ∈ u.cmds.take n, KeepsErr c) ∧ Sys2Proof.core.run n u = .next t := by
  obtain ⟨u, hu⟩ := step_next s
  cases hcmds : s.cmds with
  | nil => simp [hcmds] at hlen
  | cons c rest =>
    have hrest : u.cmds = rest := by simp [step_cmds hu, hcmds]
    rw [hcmds, List.take_succ_cons, List.forall_mem_cons] at hkeep
    rw [hcmds, List.length_cons] at hlen
    obtain ⟨hc, hkeep⟩ := hkeep
    exact ⟨c, rest, u, rfl, hc, hu, hrest ▸ Nat.le_of_succ_le_succ hlen, hrest ▸ hkeep,
      (core_run_succ n hu).symm.trans hrun⟩

/-- Once ERR is 1, it and ECAUSE stay (60_exceptions.md R126). -/
theorem run_keeps_err {n : Nat} {s t : State} (herr : s.status.err = true) (hlen : n ≤ s.cmds.length)
    (hkeep : ∀ c ∈ s.cmds.take n, KeepsErr c) (hrun : Sys2Proof.core.run n s = .next t) :
    t.status.err = true ∧ t.status.ecause = s.status.ecause := by
  induction n generalizing s with
  | zero =>
    cases hrun
    exact ⟨herr, rfl⟩
  | succ n ih =>
    obtain ⟨c, rest, u, hcmds, hc, hu, hlen', hkeep', hrun'⟩ := run_succ_cases hlen hkeep hrun
    have hstep : u.status.err = true ∧ u.status.ecause = s.status.ecause := by
      rcases step_err_cases hcmds hc hu with ⟨cause, rfl⟩ | ⟨-, hsame, hcause⟩
      · exact (s.accept c rest).raise_of_err herr cause
      · exact ⟨hsame.trans herr, hcause⟩
    obtain ⟨herr', hcause'⟩ := hstep
    obtain ⟨hend, hendCause⟩ := ih herr' hlen' hkeep' hrun'
    exact ⟨hend, hendCause.trans hcause'⟩

/-- A fault taken while ERR is 0 leaves its own cause in ECAUSE (60_exceptions.md R124). -/
theorem State.raise_of_not_err {s : State} (h : s.status.err = false) (c : Cause) :
    (s.raise c).status.err = true ∧ (s.raise c).status.ecause = some c := by
  simp [h]

/-- Settles O18, by induction on the length of the run: the first command faults, and ERR and its cause stay to the end, or
it does not, and the claim is that of the rest of the run. -/
theorem errAtTheEndTellsWhetherACommandFaulted : Obligations.ErrAtTheEndTellsWhetherACommandFaulted := by
  intro n
  induction n with
  | zero =>
    intro s t herr _ _ hrun
    cases hrun
    simp [herr]
  | succ n ih =>
    intro s t herr hlen hkeep hrun
    obtain ⟨c, rest, u, hcmds, hc, hu, hlen', hkeep', hrun'⟩ := run_succ_cases hlen hkeep hrun
    rcases step_err_cases hcmds hc hu with ⟨cause, rfl⟩ | ⟨⟨v, hrsp⟩, hsame, -⟩
    · obtain ⟨herr', hcause'⟩ := (s.accept c rest).raise_of_not_err herr cause
      obtain ⟨hend, hendCause⟩ := run_keeps_err herr' hlen' hkeep' hrun'
      have hfirst : AnsweredAt s 0 ⟨true, cause.code, 0⟩ := (answeredAt_zero_iff hu _).mpr rfl
      refine ⟨iff_of_true hend ⟨0, _, n.succ_pos, hfirst, rfl⟩, fun j r _ hr _ hbefore => ?_⟩
      cases j with
      | zero =>
        obtain rfl : _ = r := Option.some.inj ((answeredAt_zero_iff hu r).mp hr)
        rw [hendCause, hcause', Cause.code_toNat, ecauseNumber]
      | succ j => cases hbefore 0 _ j.succ_pos hfirst
    · obtain ⟨hiff, hfirst⟩ := ih u t (hsame.trans herr) hlen' hkeep' hrun'
      refine ⟨hiff.trans (exists_fault_succ_iff hu hrsp n).symm, fun j r hj hr hf hbefore => ?_⟩
      cases j with
      | zero =>
        rw [answeredAt_zero_iff hu, hrsp] at hr
        cases hr
        cases hf
      | succ j =>
        refine hfirst j r (Nat.lt_of_succ_lt_succ hj) ((answeredAt_succ_iff hu j r).mp hr) hf fun j' r' hj' hr' => ?_
        exact hbefore (j' + 1) r' (Nat.succ_lt_succ hj') ((answeredAt_succ_iff hu j' r').mpr hr')

end Sys2Proof.Machine
end

section
/-! PROOF. The smallest claims: the invariant at reset (10_state.md R22), the worked encodings (30_encoding.md), the idle step
(20_memory.md R32). -/

namespace Sys2Proof.Machine

/-- Settles O2: at reset ERR, REM and RRES are 0 and there is no response. -/
theorem goodAtReset : Obligations.GoodAtReset where
  ecause := iff_of_true rfl rfl
  rem := by decide
  rres := ⟨rfl, rfl⟩
  rsp _ hr := by cases hr

/-- Settles O12. -/
theorem idleStepChangesNothing : Obligations.IdleStepChangesNothing := fun _ => step_of_cmds_nil

/-- Settles O8: each word is the encoding of its command, and an encoding decodes to its command. -/
theorem workedEncodingsDecode : Obligations.WorkedEncodingsDecode :=
  ⟨⟨rfl, decode_of_eq_encode rfl rfl⟩, ⟨rfl, decode_of_eq_encode rfl rfl⟩, ⟨rfl, decode_of_eq_encode rfl rfl, by decide⟩,
    ⟨rfl, decode_of_eq_encode rfl rfl⟩, ⟨rfl, decode_of_eq_encode rfl rfl⟩⟩

end Sys2Proof.Machine
end

section
/-! PROOF. Laws of the arithmetic commands (41_addmul.md R72 to R74, 42_divide.md R77): what a fault-free ADD, MUL or DIVC
says of its operands, read off the effects of the commands. -/

namespace Sys2Proof.Machine

/-! ### Commands that completed -/

/-- A command that faults does not answer with fault = 0. -/
theorem Faults.rsp_ne {i : Instr} {s t : State} {c : Cause} {v : Word} (hf : Faults i s c) (h : exec i s = .next t) :
    t.rsp ≠ some ⟨false, 0, v⟩ := by
  intro hr
  obtain ⟨u, hu, hsq⟩ := hf
  rw [h] at hu
  cases hu
  rw [hsq.rsp] at hr
  cases hr

section
variable {w : Width} {rd rs1 rs2 : WReg} {s t : State} {v : Word} {x y : Wide}

/-- A completed ADD found both sources of its width and had its effect (41_addmul.md R70). -/
theorem addAt_completed (h : exec (.addAt w rd rs1 rs2) s = .next t) (hr : t.rsp = some ⟨false, 0, v⟩)
    (hx : s.wide rs1 = some x) (hy : s.wide rs2 = some y) :
    WroteRegAndCarry rd w ((x.toNat + y.toNat) % 2 ^ w.bits) (2 ^ w.bits ≤ x.toNat + y.toNat) s t := by
  obtain ⟨-, -, hsome⟩ := addWritesSumAndCarry w rd rs1 rs2 s
  obtain ⟨hfault, hdone⟩ := hsome x y hx hy
  have hw : ¬(x.width ≠ w ∨ y.width ≠ w) := fun hne => (hfault hne).rsp_ne h hr
  obtain ⟨hxw, hyw⟩ : x.width = w ∧ y.width = w := by simpa using hw
  obtain ⟨u, hu, hwrote⟩ := hdone hxw hyw
  cases h.symm.trans hu
  exact hwrote

/-- A completed MUL found its source of its width and had its effect (41_addmul.md R71). -/
theorem mulAt_completed (h : exec (.mulAt w rd rs1) s = .next t) (hr : t.rsp = some ⟨false, 0, v⟩)
    (hx : s.wide rs1 = some x) :
    WroteRegAndCarry rd w (x.toNat * s.opa.toNat % 2 ^ w.bits) (2 ^ w.bits ≤ x.toNat * s.opa.toNat) s t := by
  obtain ⟨-, -, hsome⟩ := mulWritesProductAndCarry w rd rs1 s
  obtain ⟨hfault, hdone⟩ := hsome x hx
  have hw : x.width = w := by_contra fun hne => (hfault hne).rsp_ne h hr
  obtain ⟨u, hu, hwrote⟩ := hdone hw
  cases h.symm.trans hu
  exact hwrote

end

/-! ### The carry and the exact result -/

section
variable {rd : WReg} {w : Width} {n : Nat} {s t : State}

/-- Where C is 0 the register holds the exact result (41_addmul.md R72). -/
theorem WroteRegAndCarry.holds_of_carry (h : WroteRegAndCarry rd w (n % 2 ^ w.bits) (2 ^ w.bits ≤ n) s t)
    (hc : t.status.c = false) : t.Holds rd w n := by
  have hlt : n < 2 ^ w.bits := by
    rw [← not_le, ← h.carry, hc]
    exact Bool.false_ne_true
  exact Nat.mod_eq_of_lt hlt ▸ h.dest

/-- Where the exact result fits, C is 0 (41_addmul.md R73). -/
theorem WroteRegAndCarry.carry_of_lt (h : WroteRegAndCarry rd w (n % 2 ^ w.bits) (2 ^ w.bits ≤ n) s t)
    (hn : n < 2 ^ w.bits) : t.status.c = false := by
  rw [← Bool.not_eq_true, h.carry]
  exact hn.not_ge

/-- The register holds the exact result exactly when C is 0 (41_addmul.md R72). -/
theorem WroteRegAndCarry.exact_iff {z : Wide} (h : WroteRegAndCarry rd w (n % 2 ^ w.bits) (2 ^ w.bits ≤ n) s t)
    (hz : t.wide rd = some z) : z.toNat = n ↔ t.status.c = false := by
  constructor
  · intro hexact
    obtain ⟨y, hy, hw, -⟩ := h.dest
    cases hz.symm.trans hy
    exact h.carry_of_lt (hexact ▸ hw ▸ z.toNat_lt)
  · intro hc
    obtain ⟨y, hy, -, hn⟩ := h.holds_of_carry hc
    cases hz.symm.trans hy
    exact hn

end

/-- Settles O30, from what a completed ADD or MUL wrote. -/
theorem carryTellsWhetherTheResultIsExact : Obligations.CarryTellsWhetherTheResultIsExact :=
  ⟨fun _ _ _ _ _ _ _ _ _ h hr hx hy hz => (addAt_completed h hr hx hy).exact_iff hz,
    fun _ _ _ _ _ _ _ h hr hx hz => (mulAt_completed h hr hx).exact_iff hz⟩

/-! ### Widened operands -/

section
variable {w : Width} {rs1 rs2 : WReg} {x y : Nat} {s : State}

/-- ADD of two values of its width completes. -/
theorem exec_addAt_of_holds (rd : WReg) (hx : s.Holds rs1 w x) (hy : s.Holds rs2 w y) :
    ∃ t, exec (.addAt w rd rs1 rs2) s = .next t ∧
      WroteRegAndCarry rd w ((x + y) % 2 ^ w.bits) (2 ^ w.bits ≤ x + y) s t := by
  obtain ⟨x, hx, hxw, rfl⟩ := hx
  obtain ⟨y, hy, hyw, rfl⟩ := hy
  obtain ⟨-, -, hsome⟩ := addWritesSumAndCarry w rd rs1 rs2 s
  obtain ⟨-, hdone⟩ := hsome x y hx hy
  exact hdone hxw hyw

/-- MUL of a value of its width completes. -/
theorem exec_mulAt_of_holds (rd : WReg) (hx : s.Holds rs1 w x) :
    ∃ t, exec (.mulAt w rd rs1) s = .next t ∧
      WroteRegAndCarry rd w (x * s.opa.toNat % 2 ^ w.bits) (2 ^ w.bits ≤ x * s.opa.toNat) s t := by
  obtain ⟨x, hx, hxw, rfl⟩ := hx
  obtain ⟨-, -, hsome⟩ := mulWritesProductAndCarry w rd rs1 s
  obtain ⟨-, hdone⟩ := hsome x hx
  exact hdone hxw

/-- DIVC of a value of its width completes. -/
theorem exec_divcAt_of_holds (rd : WReg) (c : Divisor) (hx : s.Holds rs1 w x) :
    ∃ t, exec (.divcAt w rd rs1 c) s = .next t ∧ t.Holds rd w (x / divisorValue c) ∧
      t.rem.toNat = x % divisorValue c := by
  obtain ⟨x, hx, hxw, rfl⟩ := hx
  obtain ⟨-, -, hall⟩ := divcWritesQuotientAndRemainder
  obtain ⟨-, -, hsome⟩ := hall w rd rs1 c s
  obtain ⟨-, hdone⟩ := hsome x hx
  obtain ⟨t, ht, hdest, hrem, -⟩ := hdone hxw
  exact ⟨t, ht, hdest, hrem⟩

end

/-- A sum of two w-bit numbers fits any width of 64 bits more (41_addmul.md R73). -/
theorem add_lt_of_bits {b b' x y : Nat} (hb : b + 64 ≤ b') (hx : x < 2 ^ b) (hy : y < 2 ^ b) : x + y < 2 ^ b' :=
  calc x + y < 2 ^ (b + 1) := by rw [pow_succ]; omega
    _ ≤ 2 ^ b' := Nat.pow_le_pow_right (by decide) (by omega)

/-- A product of a w-bit number and a word fits any width of 64 bits more (41_addmul.md R73). -/
theorem mul_word_lt_of_bits {b b' x : Nat} (hb : b + 64 ≤ b') (hx : x < 2 ^ b) (a : Word) : x * a.toNat < 2 ^ b' :=
  calc x * a.toNat < 2 ^ b * 2 ^ 64 := Nat.mul_lt_mul'' hx a.isLt
    _ = 2 ^ (b + 64) := (pow_add 2 b 64).symm
    _ ≤ 2 ^ b' := Nat.pow_le_pow_right (by decide) hb

/-- Settles O31: the exact sum and product fit the wider width, so C is 0 and the register holds them. -/
theorem wideningMakesOverflowImpossible : Obligations.WideningMakesOverflowImpossible := by
  refine ⟨fun rd rs1 x s hx => ?_, fun w w' rd rs1 rs2 x y s hw hx hy hx' hy' => ⟨?_, ?_⟩⟩
  · obtain ⟨t, ht, hwrote⟩ := exec_mulAt_of_holds rd hx
    exact ⟨t, ht, hwrote.carry⟩
  · obtain ⟨t, ht, hwrote⟩ := exec_addAt_of_holds rd hx' hy'
    have hc := hwrote.carry_of_lt (add_lt_of_bits hw hx hy)
    exact ⟨t, ht, hwrote.holds_of_carry hc, hc⟩
  · obtain ⟨t, ht, hwrote⟩ := exec_mulAt_of_holds rd hx'
    have hc := hwrote.carry_of_lt (mul_word_lt_of_bits hw hx s.opa)
    exact ⟨t, ht, hwrote.holds_of_carry hc, hc⟩

/-! ### ADD and MUL as laws -/

/-- The checks of ADD's sources and their sum do not depend on the order (41_addmul.md R74). -/
theorem addBody_comm (w : Width) (rd rs1 rs2 : WReg) (s : State) : addBody w rd rs1 rs2 s = addBody w rd rs2 rs1 s := by
  rcases s.reqBoth_cases rs1 rs2 w with ⟨hnone, e⟩ | ⟨x, y, hx, hy, hw, e⟩ | ⟨x, y, hx, hy, hxw, hyw, e⟩
  · simp only [addBody, e, State.reqBoth_empty hnone.symm]
  · simp only [addBody, e, State.reqBoth_width hy hx (not_and_or.mp hw).symm]
  · simp only [addBody, e, State.reqBoth_some hy hx hyw hxw, Nat.add_comm]

/-- A value held at a width fits that width. -/
theorem State.Holds.lt {s : State} {r : WReg} {w : Width} {v : Nat} (h : s.Holds r w v) : v < 2 ^ w.bits := by
  obtain ⟨x, -, rfl, rfl⟩ := h
  exact x.toNat_lt

/-- Settles O32: the body of ADD is symmetric; a sum with zero fits; the exact product divided by its factor is the widened
value. -/
theorem arithmeticLaws : Obligations.ArithmeticLaws := by
  refine ⟨fun w rd rs1 rs2 s => ?_, fun w rd rs1 rs2 s x hx hzero => ?_,
    fun w w' rd rs1 c s x t u hx hw hopa ht hu hc => ?_⟩
  · rw [exec_addAt, exec_addAt, addBody_comm]
  · obtain ⟨t, ht, hwrote⟩ := exec_addAt_of_holds rd hx hzero
    have hcarry := hwrote.carry_of_lt hx.lt
    exact ⟨t, ht, hwrote.holds_of_carry hcarry, hcarry⟩
  · obtain ⟨x, hx, hxw, rfl⟩ := hx
    obtain ⟨-, -, hsome⟩ := widenKeepsTheInteger w' rd rs1 s
    obtain ⟨-, hdone⟩ := hsome x hx
    obtain ⟨t', ht', hwiden⟩ := hdone (hxw ▸ hw)
    cases ht.symm.trans ht'
    obtain ⟨-, -, hopa'⟩ := hwiden.port
    obtain ⟨u', hu', hmul⟩ := exec_mulAt_of_holds rd hwiden.dest
    cases hu.symm.trans hu'
    obtain ⟨v, hv, hquot, hrem⟩ := exec_divcAt_of_holds rd c (hmul.holds_of_carry hc)
    rw [hopa', hopa] at hquot hrem
    rw [Nat.mul_div_cancel _ (divisorValue_pos c)] at hquot
    rw [Nat.mul_mod_left] at hrem
    exact ⟨v, hv, hquot, BitVec.eq_of_toNat_eq hrem⟩

/-! ### The division law -/

/-- Settles O34: a completed DIVC leaves quotient and remainder, and these are unique. -/
theorem divisionLaw : Obligations.DivisionLaw := by
  intro w rd rs1 c s t x h hr hx
  obtain ⟨-, -, hall⟩ := divcWritesQuotientAndRemainder
  obtain ⟨-, -, hsome⟩ := hall w rd rs1 c s
  obtain ⟨hfault, -⟩ := hsome x hx
  have hw : x.width = w := by_contra fun hne => (hfault hne).rsp_ne h hr
  obtain ⟨t', ht', ⟨z, hz, -, hquot⟩, hrem⟩ := exec_divcAt_of_holds rd c ⟨x, hx, hw, rfl⟩
  cases h.symm.trans ht'
  refine ⟨z, hz, ?_, hrem ▸ Nat.mod_lt _ (divisorValue_pos c), fun q r hqr hlt => ?_⟩
  · rw [hquot, hrem, Nat.div_add_mod']
  · have hsum : r + divisorValue c * q = x.toNat := by rw [hqr, Nat.add_comm, Nat.mul_comm]
    obtain ⟨hq, hrest⟩ := (Nat.div_mod_unique (divisorValue_pos c)).mpr ⟨hsum, hlt⟩
    exact ⟨hq.symm.trans hquot.symm, hrest.symm.trans hrem.symm⟩

end Sys2Proof.Machine
end

section
/-! PROOF. Building and reading a whole value (40_move.md R65): INSW of the words of a value, one by one, and RDW of each. -/

namespace Sys2Proof.Machine

open Sys2Proof.Claims

/-! ### A value is its words -/

/-- A bit of a word is a bit of the value. -/
theorem getLsbD_wordOf (v j : Nat) {i : Nat} (hi : i < 64) : (wordOf v j).getLsbD i = v.testBit (64 * j + i) := by
  rw [wordOf, BitVec.getLsbD_ofNat, Nat.testBit_div_two_pow, decide_eq_true hi, Bool.true_and, Nat.add_comm]

/-- Values of `n` words with the same words are the same. -/
theorem eq_of_wordOf_eq {n x y : Nat} (hx : x < 2 ^ (64 * n)) (hy : y < 2 ^ (64 * n))
    (h : ∀ j, j < n → wordOf x j = wordOf y j) : x = y := by
  apply Nat.eq_of_testBit_eq
  intro i
  by_cases hi : i / 64 < n
  · have hsplit : 64 * (i / 64) + i % 64 = i := Nat.div_add_mod i 64
    have hmod : i % 64 < 64 := Nat.mod_lt i (by decide)
    rw [← hsplit, ← getLsbD_wordOf x _ hmod, ← getLsbD_wordOf y _ hmod, h _ hi]
  · have hle : 2 ^ (64 * n) ≤ 2 ^ i := Nat.pow_le_pow_right (by decide) (by omega)
    rw [Nat.testBit_lt_two_pow (hx.trans_le hle), Nat.testBit_lt_two_pow (hy.trans_le hle)]

/-! ### Inserting words -/

/-- INSW of a word that a held value has replaces that word (40_move.md R61). -/
theorem exec_insw_of_holds {rd : WReg} {w : Width} {x i : Nat} {s : State} (h : s.Holds rd w x) (hi : i < w.words) :
    ∃ t y, exec (.insw rd i) s = .next t ∧ t.Holds rd w y ∧ ∀ j, wordOf y j = if j = i then s.opa else wordOf x j := by
  obtain ⟨x, hx, rfl, rfl⟩ := h
  obtain ⟨-, -, hsome⟩ := inswReplacesOneWord rd i s
  obtain ⟨-, hdone⟩ := hsome x hx
  obtain ⟨t, y, ht, hwrote, -, hwords⟩ := hdone hi
  exact ⟨t, y, ht, hwrote.dest, hwords⟩

/-- INSW of a list of words of `v` leaves a value that has these words from `v` and the others as they were, in whatever
order the list names them. -/
theorem insertWords_of_holds {rd : WReg} {w : Width} (v : Nat) {js : List Nat} (hjs : ∀ j ∈ js, j < w.words) {x : Nat}
    {s : State} (h : s.Holds rd w x) :
    ∃ u y, insertWords rd v js s = .next u ∧ u.Holds rd w y ∧
      ∀ j, wordOf y j = if j ∈ js then wordOf v j else wordOf x j := by
  induction js generalizing x s with
  | nil => exact ⟨s, x, rfl, h, by simp⟩
  | cons i js ih =>
    obtain ⟨hi, hjs⟩ := List.forall_mem_cons.mp hjs
    have hopa : State.Holds { s with opa := wordOf v i } rd w x := h
    obtain ⟨t, y, ht, hy, hwords⟩ := exec_insw_of_holds hopa hi
    obtain ⟨u, z, hu, hz, hwords'⟩ := ih hjs hy
    refine ⟨u, z, by simp only [insertWords, ht, hu], hz, fun j => ?_⟩
    rw [hwords', hwords]
    by_cases hji : j = i <;> simp [hji]

/-- RDW of a word that a held value has answers it (40_move.md R62). -/
theorem onlyAnswers_rdw_of_holds {rd : WReg} {w : Width} {x j : Nat} {s : State} (h : s.Holds rd w x) (hj : j < w.words) :
    OnlyAnswers (.rdw rd j) s (wordOf x j) := by
  obtain ⟨x, hx, rfl, rfl⟩ := h
  obtain ⟨-, -, hsome⟩ := rdwAnswersOneWord rd j s
  obtain ⟨-, hdone⟩ := hsome x hx
  obtain ⟨a, hans, ha⟩ := hdone hj
  rwa [BitVec.eq_of_toNat_eq (ha.trans (wordOf_toNat x.toNat j).symm)] at hans

/-- Settles O27: SETW puts word 0 in place and INSW the others, so the register holds a value with the words of `v`. -/
theorem setwThenInswBuildsTheValue : Obligations.SetwThenInswBuildsTheValue := by
  intro w rd v js s hv hperm
  have hmem : ∀ j, j ∈ js ↔ 1 ≤ j ∧ j < w.words := by
    intro j
    rw [hperm.mem_iff, List.mem_range'_1]
    cases w <;> simp [Width.words]
  obtain ⟨-, t, ht, hwrote⟩ := setwWritesTheOperand w rd { s with opa := wordOf v 0 }
  obtain ⟨u, y, hu, hy, hwords⟩ := insertWords_of_holds v (fun j hj => ((hmem j).mp hj).2) hwrote.dest
  have hyv : y = v := by
    refine eq_of_wordOf_eq (n := w.words) (w.bits_eq_words ▸ hy.lt) (w.bits_eq_words ▸ hv) fun j hj => ?_
    rw [hwords]
    by_cases h0 : j = 0
    · subst h0
      rw [if_neg (by simp [hmem])]
      exact BitVec.eq_of_toNat_eq (wordOf_zero_toNat (wordOf v 0).isLt)
    · rw [if_pos ((hmem j).mpr ⟨by omega, hj⟩)]
  subst hyv
  exact ⟨t, u, ht, hu, hy, fun j hj => onlyAnswers_rdw_of_holds hy hj⟩

end Sys2Proof.Machine
end

section
/-! PROOF. Relations between shift and count (43_shift_clz.md R84). The count is the largest shift that loses no bit; the
relations follow from that, and the normalization loop from the count after a shift. -/

namespace Sys2Proof.Machine

open Sys2Proof.Claims

/-! ### The count -/

/-- The count of a non-zero value is the largest amount it can be shifted by without losing a bit (43_shift_clz.md R84). -/
theorem le_leadingZeros_iff {bits v n : Nat} (h : v ≠ 0) (hv : v < 2 ^ bits) :
    n ≤ leadingZeros bits v ↔ v * 2 ^ n < 2 ^ bits := by
  obtain ⟨hlt, hlo, hhi⟩ := leadingZeros_of_ne_zero h hv
  constructor
  · intro hn
    calc v * 2 ^ n < 2 ^ (bits - leadingZeros bits v) * 2 ^ n := Nat.mul_lt_mul_of_pos_right hhi (Nat.two_pow_pos n)
      _ = 2 ^ (bits - leadingZeros bits v + n) := (pow_add ..).symm
      _ ≤ 2 ^ bits := Nat.pow_le_pow_right (by decide) (by omega)
  · intro hfit
    by_contra hn
    have hlost : 2 ^ bits ≤ v * 2 ^ n :=
      calc 2 ^ bits ≤ 2 ^ (bits - 1 - leadingZeros bits v + n) := Nat.pow_le_pow_right (by decide) (by omega)
        _ = 2 ^ (bits - 1 - leadingZeros bits v) * 2 ^ n := pow_add ..
        _ ≤ v * 2 ^ n := Nat.mul_le_mul_right _ hlo
    exact hlost.not_gt hfit

/-- A shift within the count lowers the count by its amount. -/
theorem leadingZeros_mul_two_pow {bits v n : Nat} (h : v ≠ 0) (hv : v < 2 ^ bits) (hn : n ≤ leadingZeros bits v) :
    leadingZeros bits (v * 2 ^ n) = leadingZeros bits v - n := by
  have hne : v * 2 ^ n ≠ 0 := by positivity
  refine eq_of_forall_le_iff fun m => ?_
  rw [le_leadingZeros_iff hne ((le_leadingZeros_iff h hv).mp hn), mul_assoc, ← pow_add, ← le_leadingZeros_iff h hv]
  omega

/-- The count of the top 64 bits is the count of the whole, capped at 64 (43_shift_clz.md R84 (a)). -/
theorem leadingZeros_div_two_pow {b v : Nat} (hv : v < 2 ^ (b + 64)) :
    leadingZeros 64 (v / 2 ^ b) = min (leadingZeros (b + 64) v) 64 := by
  rcases eq_or_ne v 0 with rfl | h
  · simp
  have hshift : ∀ m, m ≤ 64 → (v / 2 ^ b * 2 ^ m < 2 ^ 64 ↔ v * 2 ^ m < 2 ^ (b + 64)) := by
    intro m hm
    have h64 : 2 ^ 64 = 2 ^ (64 - m) * 2 ^ m := by rw [← pow_add, Nat.sub_add_cancel hm]
    rw [pow_add, h64, ← mul_assoc, Nat.mul_lt_mul_right (Nat.two_pow_pos m), Nat.mul_lt_mul_right (Nat.two_pow_pos m),
      Nat.div_lt_iff_lt_mul (Nat.two_pow_pos b), Nat.mul_comm]
  by_cases htop : v / 2 ^ b = 0
  · have hcount : 64 ≤ leadingZeros (b + 64) v := by
      rw [le_leadingZeros_iff h hv, ← hshift 64 le_rfl, htop]
      decide
    rw [htop, leadingZeros_zero, Nat.min_eq_right hcount]
  · have htopLt : v / 2 ^ b < 2 ^ 64 := by
      rw [Nat.div_lt_iff_lt_mul (Nat.two_pow_pos b), ← pow_add, Nat.add_comm]
      exact hv
    refine eq_of_forall_le_iff fun m => ?_
    by_cases hm : m ≤ 64
    · rw [le_leadingZeros_iff htop htopLt, hshift m hm, le_min_iff, le_leadingZeros_iff h hv]
      exact (and_iff_left hm).symm
    · obtain ⟨hlt, -⟩ := leadingZeros_of_ne_zero htop htopLt
      omega

/-- CLZT is min(CLZ, 64) (43_shift_clz.md R84 (a)). -/
theorem topCount_eq {w : Width} {v : Nat} (hv : v < 2 ^ w.bits) :
    leadingZeros 64 (wordOf v (w.words - 1)).toNat = min (leadingZeros w.bits v) 64 := by
  have hbits : w.bits = w.bits - 64 + 64 := by cases w <;> rfl
  rw [wordOf_top_toNat hv, leadingZeros_div_two_pow (hbits ▸ hv), ← hbits]

/-! ### The shift -/

/-- A shift that leaves the bits within the width is a multiplication (43_shift_clz.md R80). -/
theorem shiftLeft_eq_mul_iff (w : Width) (v n : Nat) : shiftLeft w v n = v * 2 ^ n ↔ v * 2 ^ n < 2 ^ w.bits := by
  rw [shiftLeft_eq, Nat.mod_eq_iff_lt (Nat.two_pow_pos _).ne']

section
variable {w : Width} {v n : Nat}

/-- A shift loses no bit exactly for zero and within the count (43_shift_clz.md R84 (b)). -/
theorem shiftLeft_exact_iff (hv : v < 2 ^ w.bits) : shiftLeft w v n = v * 2 ^ n ↔ v = 0 ∨ n ≤ leadingZeros w.bits v := by
  rw [shiftLeft_eq_mul_iff]
  rcases eq_or_ne v 0 with rfl | h
  · simp
  · rw [le_leadingZeros_iff h hv, or_iff_right h]

/-- A non-zero value shifted by its count has its highest bit in bit w − 1 (43_shift_clz.md R84 (d)). -/
theorem two_pow_le_mul_leadingZeros (h : v ≠ 0) (hv : v < 2 ^ w.bits) :
    2 ^ (w.bits - 1) ≤ v * 2 ^ leadingZeros w.bits v := by
  obtain ⟨hlt, hlo, -⟩ := leadingZeros_of_ne_zero h hv
  calc 2 ^ (w.bits - 1) = 2 ^ (w.bits - 1 - leadingZeros w.bits v) * 2 ^ leadingZeros w.bits v := by
        rw [← pow_add, Nat.sub_add_cancel (by omega)]
    _ ≤ v * 2 ^ leadingZeros w.bits v := Nat.mul_le_mul_right _ hlo

/-- The loop shifts a non-zero value by its whole count when its turns suffice, 64 bits a turn (43_shift_clz.md
R84 (d)). -/
theorem normalizeLoop_eq {fuel : Nat} (h : v ≠ 0) (hv : v < 2 ^ w.bits) (hf : leadingZeros w.bits v ≤ 64 * fuel) :
    normalizeLoop w fuel v = v * 2 ^ leadingZeros w.bits v := by
  induction fuel generalizing v with
  | zero => rw [normalizeLoop, Nat.le_zero.mp hf, pow_zero, mul_one]
  | succ fuel ih =>
    simp only [normalizeLoop, topCount_eq hv]
    by_cases hdone : min (leadingZeros w.bits v) 64 = 0
    · rw [if_pos hdone, show leadingZeros w.bits v = 0 by omega, pow_zero, mul_one]
    · have hle : min (leadingZeros w.bits v) 64 ≤ leadingZeros w.bits v := min_le_left ..
      have hfit := (le_leadingZeros_iff h hv).mp hle
      have hcount := leadingZeros_mul_two_pow h hv hle
      rw [if_neg hdone, (shiftLeft_eq_mul_iff ..).mpr hfit, ih (by positivity) hfit (by omega), hcount, mul_assoc,
        ← pow_add, Nat.add_sub_cancel' hle]

end

/-! ### The commands -/

section
variable {w : Width} {rs1 : WReg} {v : Nat} {s : State}

theorem onlyAnswers_clzAt_of_holds (h : s.Holds rs1 w v) :
    OnlyAnswers (.clzAt w rs1) s (BitVec.ofNat 64 (leadingZeros w.bits v)) := by
  obtain ⟨x, hx, hw, rfl⟩ := h
  exact exec_of_body_ok (exec_clzAt w rs1 s) (by rw [clzBody, State.req_some hx hw]; rfl)

theorem onlyAnswers_clztAt_of_holds (h : s.Holds rs1 w v) :
    OnlyAnswers (.clztAt w rs1) s (BitVec.ofNat 64 (leadingZeros 64 (wordOf v (w.words - 1)).toNat)) := by
  obtain ⟨x, hx, hw, rfl⟩ := h
  exact exec_of_body_ok (exec_clztAt w rs1 s) (by rw [clztBody, State.req_some hx hw]; rfl)

theorem exec_shlAt_of_holds (rd : WReg) (h : s.Holds rs1 w v) :
    ∃ t, exec (.shlAt w rd rs1) s = .next t ∧ t.Holds rd w (shiftLeft w v s.opa.toNat) := by
  obtain ⟨x, hx, hw, rfl⟩ := h
  obtain ⟨t, ht, hwrote, -⟩ := wroteReg_of_shift (exec_shlAt w rd rs1 s) hx hw
  exact ⟨t, ht, shiftLeft_eq w x.toNat _ ▸ hwrote.dest⟩

end

/-- Settles O39: the commands compute the count and the shift, and these stand in the relations above. -/
theorem shiftAndCountRelations : Obligations.ShiftAndCountRelations := by
  refine ⟨fun w rd rs1 v s h => ⟨onlyAnswers_clzAt_of_holds h, onlyAnswers_clztAt_of_holds h, exec_shlAt_of_holds rd h⟩,
    fun w v hv => ⟨topCount_eq hv, fun n => shiftLeft_exact_iff hv, ?_, fun h => ?_, ?_⟩⟩
  · rw [shiftLeft_exact_iff hv, topCount_eq hv]
    exact .inr (min_le_left ..)
  · have hle : leadingZeros w.bits v ≤ 64 * w.words := by
      obtain ⟨hlt, -⟩ := leadingZeros_of_ne_zero h hv
      exact w.bits_eq_words ▸ hlt.le
    have hshift := (shiftLeft_exact_iff hv).mpr (.inr le_rfl)
    have hfit := (le_leadingZeros_iff h hv).mp le_rfl
    rw [hshift, normalizeLoop_eq h hv hle, topCount_eq hfit, leadingZeros_mul_two_pow h hv le_rfl, Nat.sub_self]
    exact ⟨two_pow_le_mul_leadingZeros h hv, rfl, rfl⟩
  · rintro rfl
    rw [topCount_eq hv, leadingZeros_zero, shiftLeft_eq]
    exact ⟨by cases w <;> rfl, by simp⟩

end Sys2Proof.Machine
end

section
/-! PROOF. The numbers RND computes with (44_round.md sections 3 and 4): how many digits it drops, and the digit-at-a-time
loop that finds quotient and position. -/

namespace Sys2Proof.Machine

open Sys2Proof.Claims

/-! ### The number of digits dropped -/

/-- `digitsOver` is the least number of digits that brings a 128-bit significand below 10^34 (44_round.md R96). -/
theorem digitsOver_isLeast {s : Nat} (h : s < 2 ^ 128) : IsLeast {k : Nat | s / 10 ^ k < 10 ^ 34} (digitsOver 6 s) := by
  obtain ⟨hlt, hge⟩ := digitsOver_spec 6 s (limit_mul_gt_of_lt h)
  refine ⟨hlt, fun j hj => ?_⟩
  by_contra hno
  exact (hge j (not_le.mp hno)).not_gt hj

/-- A 128-bit significand has at most 5 digits too many (44_round.md R96). -/
theorem digitsOver_le {s : Nat} (h : s < 2 ^ 128) : digitsOver 6 s ≤ 5 := by
  obtain ⟨-, hleast⟩ := digitsOver_isLeast h
  have hfive : s / 10 ^ 5 < 10 ^ 34 := by
    rw [Nat.div_lt_iff_lt_mul (by positivity)]
    exact h.trans (by norm_num)
  exact hleast hfive

/-- Settles O40: `dropCount` is the larger of `digitsOver` and −e, and from 39 on 10^k exceeds the significand. -/
theorem dropCountIsLeast : Obligations.DropCountIsLeast := by
  intro s e h
  refine ⟨dropCount_isLeast e h, ⟨digitsOver 6 s, digitsOver_le h, digitsOver_isLeast h, ?_⟩, fun k hk => ?_⟩
  · rw [dropCount]
    omega
  · have hpow : 10 ^ 38 ≤ 10 ^ (k - 1) := Nat.pow_le_pow_right (by decide) (by omega)
    have hlt : s < 10 ^ k :=
      calc s < 10 ^ 39 := h.trans (by norm_num)
        _ ≤ 10 ^ k := Nat.pow_le_pow_right (by decide) hk
    exact ⟨Nat.div_eq_of_lt hlt, Nat.mod_eq_of_lt hlt, by omega⟩

/-! ### The digit-at-a-time loop -/

/-- The last turn of the loop is one more division. -/
theorem dropMany_succ (k : Nat) (u : LoopState) : LoopState.dropMany (k + 1) u = (LoopState.dropMany k u).drop := by
  induction k generalizing u with
  | zero => rfl
  | succ k ih => exact ih u.drop

/-- After `k + 1` turns the loop holds the quotient, the last digit dropped, and whether the digits below it were all
zero. -/
theorem dropMany_start (s k : Nat) :
    LoopState.dropMany (k + 1) ⟨s, 0, false⟩ = ⟨s / 10 ^ (k + 1), s / 10 ^ k % 10, s % 10 ^ k != 0⟩ := by
  induction k with
  | zero => simp [LoopState.dropMany, LoopState.drop, Nat.mod_one]
  | succ k ih =>
    have hquot : s / 10 ^ (k + 1) / 10 = s / 10 ^ (k + 1 + 1) := by rw [Nat.div_div_eq_div_mul, ← pow_succ]
    have hsticky : (s % 10 ^ k != 0 || s / 10 ^ k % 10 != 0) = (s % 10 ^ (k + 1) != 0) := by
      rw [Bool.eq_iff_iff, Nat.mod_pow_succ]
      simp [or_iff_not_and_not]
    rw [dropMany_succ, ih, LoopState.drop, hquot, hsticky]

/-- The last digit and the sticky bit decide the comparison of the remainder with half (44_round.md R107). -/
theorem loopPosition_eq {q digit low p : Nat} (hlow : low < p) (t : TruncFlag) :
    LoopState.position ⟨q, digit, low != 0⟩ t = position q (low + p * digit) (5 * p) t := by
  have hp : p ≠ 0 := by omega
  rcases Nat.lt_trichotomy digit 5 with hd | rfl | hd
  · have hbelow : low + p * digit < 5 * p :=
      calc low + p * digit < p + p * digit := Nat.add_lt_add_right hlow _
        _ = (digit + 1) * p := by ring
        _ ≤ 5 * p := Nat.mul_le_mul_right p hd
    cases t <;> simp [LoopState.position, position, hp, hd, hbelow, and_comm]
  · rcases Nat.eq_zero_or_pos low with rfl | hpos
    · have hhalf : 0 + p * 5 = 5 * p := by ring
      cases t <;> simp [LoopState.position, position, hhalf, hlow.ne']
    · have habove : 5 * p < low + p * 5 := by omega
      simp [LoopState.position, position, hpos.ne', habove, habove.le.not_gt]
  · have habove : 5 * p < low + p * digit :=
      calc 5 * p < digit * p := Nat.mul_lt_mul_of_pos_right hd (by omega)
        _ = p * digit := Nat.mul_comm ..
        _ ≤ low + p * digit := Nat.le_add_left ..
    simp [LoopState.position, position, hp, habove, habove.le.not_gt, hd.ne', hd.le.not_gt, show digit ≠ 0 by omega]

/-- Settles O46, with the state of the loop after `k` turns. -/
theorem digitLoopComputesThePosition : Obligations.DigitLoopComputesThePosition := by
  intro s k t hk
  obtain ⟨k, rfl⟩ := Nat.exists_eq_add_one.mpr hk
  rw [dropMany_start, loopPosition_eq (Nat.mod_lt s (by positivity)), ← Nat.mod_pow_succ, Nat.add_sub_cancel]

end Sys2Proof.Machine
end

section
/-! PROOF. What RND's result says (44_round.md sections 2, 4 and 6): its range, and that the rounded significand is the exact
value, wherever the truncation flag allows it to lie, correctly rounded. -/

namespace Sys2Proof.Machine

open Sys2Proof.Claims

/-! ### The range of results -/

/-- A final significand has at most 34 digits (44_round.md section 6). -/
theorem reduce_significand_lt {maxBexp : Nat} {m : RoundMode} {neg : Bool} {t : TruncFlag} {s q2 : Nat} {e e2 : Int}
    (hs : s < 2 ^ 128) (h : reduce maxBexp m neg t s e = .ok (q2, e2)) : q2 < 10 ^ 34 := by
  obtain ⟨⟨hdiv, -⟩, -⟩ := dropCount_isLeast e hs
  by_cases hzero : dropCount s e = 0
  · rw [reduce_of_dropCount_eq_zero hzero] at h
    split at h <;> cases h
    simpa [hzero] using hdiv
  · have hle : roundedQuotient m neg t s (dropCount s e) ≤ 10 ^ 34 := roundedQuotient_le hs hdiv
    rw [reduce_of_dropCount_ne_zero hzero, Except.ok.injEq] at h
    rcases renormalize_cases (roundedQuotient m neg t s (dropCount s e)) (e + dropCount s e) with ⟨-, hr⟩ | ⟨hne, hr⟩ <;>
      rw [hr] at h <;> cases h
    · norm_num
    · exact hle.lt_of_ne hne

/-- The range of a classified result, class by class (44_round.md section 6). -/
theorem range_of_classified {maxBexp : Nat} (hmax : maxBexp ≤ 2 ^ 31 - 2) {neg : Bool} {q2 : Nat} {e2 : Int} {r : RRes}
    (h : Classified maxBexp neg q2 e2 r) (he : 0 ≤ e2) :
    (r.cls = .finite ∧ 1 ≤ q2 ∧ 0 ≤ r.exp.toInt ∧ r.exp.toInt ≤ maxBexp) ∨
    (r.cls = .zero ∧ q2 = 0 ∧ 0 ≤ r.exp.toInt ∧ r.exp.toInt ≤ maxBexp) ∨
    (r.cls = .overflow ∧ 1 ≤ q2 ∧ (maxBexp : Int) < r.exp.toInt ∧ r.exp.toInt ≤ 2 ^ 31 - 1) := by
  obtain ⟨-, hzero, hover, hfinite⟩ := h
  by_cases hq : q2 = 0
  · obtain ⟨hcls, hexp⟩ := hzero hq
    exact .inr (.inl ⟨hcls, hq, by omega, by omega⟩)
  · rcases lt_or_ge (maxBexp : Int) e2 with hlt | hle
    · obtain ⟨hcls, hexp⟩ := hover hq hlt
      exact .inr (.inr ⟨hcls, by omega, by omega, by omega⟩)
    · obtain ⟨hcls, hexp⟩ := hfinite hq hle
      exact .inl ⟨hcls, by omega, by omega, by omega⟩

/-- Settles O44: the range is that of the final pair's classification; the second run reads the same operands, so it reduces
to the same pair. -/
theorem rndResultRange : Obligations.RndResultRange := by
  refine ⟨fun rd rs1 tf neg s t r h hr hf => ?_, fun rd rd' rs rs' tf neg s s' t t' r h hr hf h' hwide hopa hrm hmax => ?_⟩
  · obtain ⟨x, flag, q2, e2, hx, hw, hflag, hred, rfl⟩ := (exec_effect h).rnd_completed hr hf
    have hs : x.toNat < 2 ^ Width.bits .w128 := hw ▸ x.toNat_lt
    have hlt : q2 < 10 ^ 34 := reduce_significand_lt hs hred
    have hvalue : (Wide.ofNat .w128 q2).toNat = q2 :=
      (Wide.ofNat_toNat ..).trans (Nat.mod_eq_of_lt (hlt.trans (by decide)))
    have hle : s.config.maxBexp.val ≤ 2 ^ 31 - 2 := Nat.le_of_lt_succ s.config.maxBexp.isLt
    have hexp : 0 ≤ e2 := reduce_exp_nonneg hred
    refine ⟨_, s.setWide_wide_self rd .w128 q2, ?_⟩
    rw [hvalue]
    exact ⟨hlt, range_of_classified hle (classified_classify hle neg q2 hexp) hexp⟩
  · obtain ⟨x, flag, q2, e2, hx, hw, hflag, hred, rfl⟩ := (exec_effect h).rnd_completed hr hf
    rw [← hopa] at hflag hred
    rw [← hrm, ← hmax] at hred
    cases h'.symm.trans (exec_rnd_of_reduce (rd := rd') (State.req_some (hwide.trans hx) hw) hflag hred)
    rw [← hmax]
    exact ⟨(s'.setWide_wide_self rd' .w128 q2).trans (s.setWide_wide_self rd .w128 q2).symm, rfl, rfl⟩

/-! ### The position of the exact value -/

/-- `x` lies where position `p` says, inside [q, q + 1) (44_round.md R98). -/
def Inside (p : Position) (q : Nat) (x : ℚ) : Prop :=
  match p with
  | .exact => x = q
  | .belowHalf => (q : ℚ) < x ∧ x < q + 1 / 2
  | .half => x = q + 1 / 2
  | .aboveHalf => (q : ℚ) + 1 / 2 < x ∧ x < q + 1

/-- Whatever the flag, the exact value is less than one unit away from the significand (44_round.md R93). -/
theorem near_of_contract {t : TruncFlag} {s : Nat} {T : ℚ} (h : Contract t s T) : (s : ℚ) - 1 < T ∧ T < s + 1 := by
  cases t with
  | exact => obtain rfl : T = s := h; constructor <;> linarith
  | below => obtain ⟨hlo, hhi⟩ := h; constructor <;> linarith
  | above => obtain ⟨hlo, hhi⟩ := h; constructor <;> linarith

/-- `position` says where every exact value the flag allows lies (44_round.md R98): a unit of the significand is at most
half a unit of the quotient, so the flag matters only where the remainder is 0 or half. -/
theorem inside_position {q r half : Nat} {t : TruncFlag} {T : ℚ} (hhalf : 1 ≤ half) (hr : r < 2 * half)
    (hq : r = 0 → t = .above → q ≠ 0) (hT : Contract t (q * (2 * half) + r) T) :
    Inside (position q r half t).2 (position q r half t).1 (T / (2 * half)) := by
  have hpos : (0 : ℚ) < 2 * half := by positivity
  have hhalf' : (1 : ℚ) ≤ half := by exact_mod_cast hhalf
  obtain ⟨hlo, hhi⟩ := near_of_contract hT
  rcases position_cases q r half t with ⟨rfl, rfl, hp⟩ | ⟨rfl, rfl, hp⟩ | ⟨rfl, rfl, hp⟩ | ⟨hr0, hh, hp⟩ | ⟨hr0, hh, hp⟩ |
    ⟨-, rfl, rfl, hp⟩ | ⟨-, rfl, rfl, hp⟩ | ⟨-, rfl, rfl, hp⟩ <;>
    simp only [hp, Inside, lt_div_iff₀ hpos, div_lt_iff₀ hpos, div_eq_iff hpos.ne']
  · obtain ⟨q, rfl⟩ := Nat.exists_eq_succ_of_ne_zero (hq rfl rfl)
    obtain ⟨-, hT⟩ := hT
    push_cast at hlo hT ⊢
    constructor <;> linarith
  · have hT : T = _ := hT
    push_cast at hT
    linarith
  · obtain ⟨hT, -⟩ := hT
    push_cast at hhi hT
    constructor <;> linarith
  · have hr1 : (1 : ℚ) ≤ r := by exact_mod_cast Nat.one_le_iff_ne_zero.mpr hr0
    have hrh : (r : ℚ) + 1 ≤ half := by exact_mod_cast hh
    push_cast at hlo hhi
    constructor <;> linarith
  · have hrh : (half : ℚ) + 1 ≤ r := by exact_mod_cast hh
    have hr2 : (r : ℚ) + 1 ≤ 2 * half := by exact_mod_cast hr
    push_cast at hlo hhi
    constructor <;> linarith
  · have hT : T = _ := hT
    push_cast at hT
    linarith
  · obtain ⟨hT, -⟩ := hT
    push_cast at hhi hT
    constructor <;> linarith
  · obtain ⟨-, hT⟩ := hT
    push_cast at hlo hT
    constructor <;> linarith

/-! ### The rounded value -/

/-- A value less than half a unit away from `n` rounds to `n` in both modes to nearest. -/
theorem roundsTo_nearest {x : ℚ} {n : Nat} (h : |x - n| < 1 / 2) (neg : Bool) :
    RoundsTo .halfEven neg x n ∧ RoundsTo .halfAway neg x n :=
  ⟨⟨h.le, fun htie => absurd htie h.ne⟩, ⟨h.le, fun htie => absurd htie h.ne⟩⟩

/-- A tie goes to the even neighbour, or to the one away from zero (44_round.md R94). -/
theorem roundsTo_half (q : Nat) (neg : Bool) :
    RoundsTo .halfEven neg ((q : ℚ) + 1 / 2) (q + (increment .halfEven .half q neg).toNat) ∧
    RoundsTo .halfAway neg ((q : ℚ) + 1 / 2) (q + (increment .halfAway .half q neg).toNat) := by
  have hdown : |(q : ℚ) + 1 / 2 - q| = 1 / 2 := by norm_num
  have hup : |(q : ℚ) + 1 / 2 - (q + 1 : Nat)| = 1 / 2 := by
    rw [Nat.cast_add, add_sub_add_left_eq_sub]
    norm_num [abs_of_neg]
  refine ⟨?_, hup.le, fun _ => ?_⟩
  · rcases Nat.mod_two_eq_zero_or_one q with heven | hodd
    · simp only [increment, heven]
      exact ⟨hdown.le, fun _ => heven⟩
    · simp only [increment, hodd]
      exact ⟨hup.le, fun _ => by simp [Nat.add_mod, hodd]⟩
  · rw [show increment .halfAway .half q neg = true from rfl, Bool.toNat_true, Nat.cast_add, Nat.cast_one]
    linarith

/-- The increment of the modes to nearest, position by position (44_round.md R99). -/
theorem roundsTo_increment_nearest {p : Position} {q : Nat} {x : ℚ} (h : Inside p q x) (neg : Bool) :
    RoundsTo .halfEven neg x (q + (increment .halfEven p q neg).toNat) ∧
    RoundsTo .halfAway neg x (q + (increment .halfAway p q neg).toNat) := by
  cases p with
  | exact =>
    obtain rfl : x = q := h
    have hnear : |(q : ℚ) - q| < 1 / 2 := by norm_num
    exact roundsTo_nearest hnear neg
  | belowHalf =>
    obtain ⟨hlo, hhi⟩ := h
    have hnear : |x - q| < 1 / 2 := abs_lt.mpr ⟨by linarith, by linarith⟩
    exact roundsTo_nearest hnear neg
  | half =>
    obtain rfl : x = q + 1 / 2 := h
    exact roundsTo_half q neg
  | aboveHalf =>
    obtain ⟨hlo, hhi⟩ := h
    have hnear : |x - (q + 1 : Nat)| < 1 / 2 := by
      rw [Nat.cast_add, Nat.cast_one]
      exact abs_lt.mpr ⟨by linarith, by linarith⟩
    exact roundsTo_nearest hnear neg

/-- A position that is not exact lies strictly between two integers. -/
theorem Inside.bounds {p : Position} {q : Nat} {x : ℚ} (h : Inside p q x) (hp : p ≠ .exact) :
    (q : ℚ) < x ∧ x < q + 1 := by
  cases p with
  | exact => exact absurd rfl hp
  | belowHalf => obtain ⟨hlo, hhi⟩ := h; exact ⟨hlo, by linarith⟩
  | half => obtain rfl : x = q + 1 / 2 := h; constructor <;> linarith
  | aboveHalf => obtain ⟨hlo, hhi⟩ := h; exact ⟨by linarith, hhi⟩

/-- The increment of R99 (44_round.md) rounds a value that lies where the position says. In a directed mode an exact value
stays, and any other is cut off or raised as the mode and the sign say. -/
theorem roundsTo_increment {p : Position} {q : Nat} {x : ℚ} (h : Inside p q x) (m : RoundMode) (neg : Bool) :
    RoundsTo m neg x (q + (increment m p q neg).toNat) := by
  obtain ⟨heven, haway⟩ := roundsTo_increment_nearest h neg
  by_cases hp : p = .exact
  · subst hp
    obtain rfl : x = q := h
    cases m with
    | halfEven => exact heven
    | halfAway => exact haway
    | _ => simp [RoundsTo, increment]
  · obtain ⟨hlo, hhi⟩ := h.bounds hp
    cases m with
    | halfEven => exact heven
    | halfAway => exact haway
    | towardZero => exact ⟨hlo.le, hhi⟩
    | towardPos | towardNeg => cases neg <;> simp [RoundsTo, increment, hp, hlo, hlo.le, hhi, hhi.le]

/-- Settles O45: the exact value lies where `position` says, and the increment rounds what lies there. -/
theorem roundingIsCorrectForEveryAllowedValue : Obligations.RoundingIsCorrectForEveryAllowedValue := by
  intro m neg t s k T hs hk hst hT
  obtain ⟨k, rfl⟩ := Nat.exists_eq_add_one.mpr hk
  have hpow : 2 * (5 * 10 ^ k) = 10 ^ (k + 1) := by ring
  have hsplit : s / 10 ^ (k + 1) * (2 * (5 * 10 ^ k)) + s % 10 ^ (k + 1) = s := hpow ▸ Nat.div_add_mod' s _
  have hzero : s % 10 ^ (k + 1) = 0 → t = .above → s / 10 ^ (k + 1) ≠ 0 := by
    intro hr ht hq
    rw [hq, hr] at hsplit
    exact hst ⟨by omega, ht⟩
  have hinside := inside_position (T := T) (Nat.one_le_iff_ne_zero.mpr (by positivity))
    (hpow ▸ Nat.mod_lt s (by positivity)) hzero (hsplit.symm ▸ hT)
  have hscale : (2 : ℚ) * ((5 * 10 ^ k : Nat) : ℚ) = 10 ^ (k + 1) := by exact_mod_cast hpow
  rw [hscale] at hinside
  rw [roundedQuotient_eq hs]
  exact roundsTo_increment hinside m neg

end Sys2Proof.Machine
end
